-- ==== Sys2Proof/Word.lean ====
section
/-! DEFINITION. The word and the byte of IC11-FFA, and how many words hold a bit string (00_scope R7, 20_memory R84). -/

namespace Sys2Proof

/-- Every register, scalar and operand-memory word is 32 bits wide (00_scope R7). -/
abbrev Word := BitVec 32

/-- One byte of operand memory or of a byte image (20_memory R90). -/
abbrev Byte := BitVec 8

/-- `W(L) = ⌈L/32⌉`, the words that hold a string of `L` bits (20_memory R84). -/
def wordsFor (len : Nat) : Nat := (len + 31) / 32

end Sys2Proof
end

