-- ==== Sys2Proof/Config.lean ====
section
/-! DEFINITION. What an implementation of IC11-FFA fixes (00_scope R6; 93_implementation_defined) and the free values the spec
leaves open: constants without a body, so that no proof can see what they are. -/

namespace Sys2Proof

/-- EF.CONV between a polynomial-basis and a normal-basis context of one polynomial (93 I11, CLONE_ACROSS_KINDS). -/
inductive AcrossKinds where
  | clone
  | refuse
deriving DecidableEq, Repr

/-- Which index of the GP.SQM and GP.SQRTM map is the output coefficient (93 I13, MAP_ORIENT). -/
inductive MapOrient where
  | rowIsOutput
  | rowIsInput
deriving DecidableEq, Repr

/-- The parameters of one instance of the hardware (00_scope R6) and the four readings a model takes as arguments
(93 I9, I11, I13, I16). They never change while the machine runs. -/
structure Params where
  /-- OM_WORDS, read as CFG_OM_WORDS -/
  omWords : Word
  /-- N_MAX, read as CFG_N_MAX -/
  nMax : Word
  /-- COB_ENTRIES, read as CFG_COB_ENTRIES -/
  cobEntries : Word
  /-- BLOCK_BASE: the host address of register offset 0 -/
  blockBase : Nat
  /-- IRR_CONST: the irreducibility test of a non-zero constant (93 I9) -/
  irrConst : Bool
  /-- CLONE_ACROSS_KINDS (93 I11) -/
  acrossKinds : AcrossKinds
  /-- MAP_ORIENT (93 I13) -/
  mapOrient : MapOrient
  /-- M_MAX: the largest small-field degree (93 I16) -/
  mMax : Nat
deriving DecidableEq, Repr

/-- The constraints of 00_scope R6 and the value sets of 93 I9, I11, I13, I16. -/
def Params.legal (p : Params) : Bool :=
  decide (1024 ≤ p.omWords.toNat) && decide (p.omWords.toNat ≤ 262144)
    && decide (2 ≤ p.nMax.toNat) && decide (p.nMax.toNat ≤ 65535)
    && decide (2 ≤ p.cobEntries.toNat) && decide (p.cobEntries.toNat ≤ 256) && p.cobEntries.toNat % 2 == 0
    && (p.mMax == 30 || p.mMax == 31)

/-- DESIGN CHOICE (log entries 9 and 10): the reference values of 00_scope R6, BLOCK_BASE 0, and the readings this spec's own
rules give. -/
def Config.reference : Params :=
  { omWords := 65536, nMax := 1024, cobEntries := 16, blockBase := 0, irrConst := true, acrossKinds := .clone,
    mapOrient := .rowIsOutput, mMax := 31 }

/-- FREE VALUE: the `k`-th answer of the environment to a `draw` or a `choose` (00_scope R14, 10_state R51). -/
opaque Config.answer : Nat → Nat

/-- FREE VALUE: the byte of operand memory at byte offset `a` that nothing has written since reset number `r`
(20_memory R103: a draw). -/
opaque Config.omAfterReset (r a : Nat) : Byte

/-- FREE VALUE: what ITERCNT reads after `j ≥ 2^32` candidates, a count that does not fit it (10_state R39 does not say). -/
opaque Config.iterCntOverflow : Nat → Word

end Sys2Proof
end

