-- ==== Sys2Proof/Machine/State.lean ====
section
/-! DEFINITION. The state of IC11-FFA as plain data: everything 10_state R30 lists, what a running search has drawn, and the
outside world's pending inputs. -/

namespace Sys2Proof.Machine

/-- The 22 error codes a command can end with (60_exceptions R400). -/
inductive ErrCode where
  | illegalCmd
  | bounds
  | capacity
  | dstOverlap
  | illegalParam
  | index
  | divZero
  | gcdZero
  | invZero
  | notInvertible
  | singular
  | dim
  | fieldInvalid
  | illegalField
  | illegalElem
  | fieldMismatch
  | noSolution
  | searchLimit
  | cacheFull
  | notImplemented
  | malformedEncoding
  | degreeParity
deriving DecidableEq, Repr

/-- The engine phase (10_state R48). In `busy` the accepted command word is the one CMD holds (70 R451). -/
inductive Phase where
  | idle
  | busy
deriving DecidableEq, Repr

/-- The stored bits of STATUS (10_state R33). BUSY is not here: it reads 1 exactly in phase `busy` (R48). -/
structure Status where
  done : Bool
  err : Bool
  rej : Bool
  busyacc : Bool
  errcode : BitVec 8
deriving DecidableEq, Repr

/-- The interrupt enables of IE (10_state R35). -/
structure IntEnable where
  doneIE : Bool
  errIE : Bool
deriving DecidableEq, Repr

/-- A descriptor register (10_state R41). -/
structure Desc where
  base : Word
  len : Word
  rows : Word
  cols : Word
  cap : Word
deriving DecidableEq, Repr

/-- The small-field context: SF_M, SF_POLY, SF_VALID (10_state R43). -/
structure SmallField where
  m : Word
  poly : Word
  valid : Bool
deriving DecidableEq, Repr

/-- KIND of an extension-field context (10_state R45): polynomial basis, optimal normal basis type I, type II. -/
inductive Kind where
  | poly
  | onb1
  | onb2
deriving DecidableEq, Repr

/-- RTYPE of an extension-field context (10_state R45). -/
inductive RType where
  | generic
  | trinomial
  | pentanomial
deriving DecidableEq, Repr

/-- An extension-field context with its hidden parts: the registers of 10_state R45, the defining polynomial `P_c` (bit `i` the
coefficient of `x^i`) and the index map (R46). -/
structure ExtField where
  valid : Bool
  kind : Kind
  n : Word
  fieldId : Word
  rtype : RType
  k1 : Word
  k2 : Word
  k3 : Word
  poly : Nat
  indexMap : List Nat
deriving DecidableEq, Repr

/-- An entry of the change-of-basis cache (10_state R47). Row `j` of the matrix is a number whose bit `i` is entry `(j, i)`. -/
structure CobEntry where
  srcId : Word
  dstId : Word
  n : Nat
  rows : List Nat
deriving DecidableEq, Repr

/-- Operand memory as (byte offset, byte) pairs: byte offset `4w + k` is byte `k` of OM word `w`, little-endian (20_memory R80,
R97). An unlisted byte has no value of its own: nothing has written it since reset. -/
abbrev Memory := List Host.Cell

/-- A host access: its host address, its width in bytes and, for a write, its value (20_memory R95). -/
inductive Access where
  | read (addr bytes : Nat)
  | write (addr bytes : Nat) (value : Word)
deriving DecidableEq, Repr

/-- What happens next at the block (log entry 1): the host makes an access, the engine has its turn, or reset is asserted. -/
inductive Input where
  | host (a : Access)
  | engine
  | reset
deriving DecidableEq, Repr

/-- What the host port answered to the last access (log entry 15). -/
inductive Response where
  | none
  | data (value : Word)
  | written
  | busError
deriving DecidableEq, Repr

/-- The model's own record of the outside world: pending inputs, the last response, the environment's answers not yet used and
how many were used, and how many resets there were (log entries 1, 4, 7, 15). -/
structure Env where
  inputs : List Input
  response : Response
  answers : List Nat
  answered : Nat
  resets : Nat
deriving DecidableEq, Repr

/-- The machine's state (10_state R30). -/
structure State where
  /-- the instance's parameters; CFG_OM_WORDS, CFG_N_MAX and CFG_COB_ENTRIES read them (R37) -/
  params : Params
  /-- CMD: the last accepted command word (R32) -/
  cmd : Word
  /-- the engine phase, and with it STATUS.BUSY (R48) -/
  phase : Phase
  /-- STATUS but for BUSY (R33) -/
  status : Status
  /-- IE (R35) -/
  ie : IntEnable
  /-- ERRCMD (R36) -/
  errcmd : Word
  /-- CMDSEQ (R34) -/
  cmdseq : Word
  /-- ITERCAP (R38) -/
  itercap : Word
  /-- ITERCNT (R39) -/
  itercnt : Word
  /-- S0 to S7 (R40) -/
  scalars : Vector Word 8
  /-- DESC0 to DESC7 (R41) -/
  descs : Vector Desc 8
  /-- SF_M, SF_POLY, SF_VALID (R43) -/
  sf : SmallField
  /-- EFC0 (R45, R46) -/
  efc0 : ExtField
  /-- EFC1 (R45, R46) -/
  efc1 : ExtField
  /-- the change-of-basis cache in append order (R47); COB_USED is its length (R44) -/
  cob : List CobEntry
  /-- operand memory (20_memory R80) -/
  om : Memory
  /-- how many candidates the running command has drawn (43 R242, 44 R271); the model's own -/
  candidates : Nat
  /-- the outside world; the model's own -/
  env : Env
deriving DecidableEq, Repr

/-- Why the machine stops: no command does; only an input that is no access to this block. -/
inductive Fault where
  /-- Raised by `step` when the next input is a host access whose address lies below BLOCK_BASE: it does not address the block,
  and the spec gives it no meaning (log entry 12). Safe: the model stops. -/
  | outsideBlock (addr : Nat)
deriving DecidableEq, Repr

/-- Why an instruction has no meaning in the model. -/
inductive Refusal where
  /-- Raised by an arm of `exec` whose instruction has no meaning yet; no arm does. Safe: the model stops. -/
  | notModelled (mnemonic : String)
deriving DecidableEq, Repr

/-- A context that holds no field (10_state R45, R46: every reset value 0, no index map). -/
def ExtField.none : ExtField :=
  { valid := false, kind := .poly, n := 0, fieldId := 0, rtype := .generic, k1 := 0, k2 := 0, k3 := 0, poly := 0, indexMap := [] }

/-- The machine right after reset (70_reset_and_hazards R441). OM lists nothing: every byte of it is a free value (20_memory
R103). The parameters are the reference instance's (log entries 9, 10); the outside world is silent (log entry 19). -/
def State.reset : State :=
  { params := Config.reference
    cmd := 0
    phase := .idle
    status := { done := false, err := false, rej := false, busyacc := false, errcode := 0 }
    ie := { doneIE := false, errIE := false }
    errcmd := 0
    cmdseq := 0
    itercap := 0
    itercnt := 0
    scalars := Vector.replicate 8 0
    descs := Vector.replicate 8 { base := 0, len := 0, rows := 0, cols := 0, cap := 0 }
    sf := { m := 0, poly := 0, valid := false }
    efc0 := ExtField.none
    efc1 := ExtField.none
    cob := []
    om := []
    candidates := 0
    env := { inputs := [], response := .none, answers := [], answered := 0, resets := 0 } }

end Sys2Proof.Machine
end

