-- ==== Sys2Proof/Machine/Gf2.lean ====
section
/-! DEFINITION. Polynomials over GF(2) as numbers, bit `i` the coefficient of `x^i` (00_scope R9): product, square, quotient and
remainder, gcd, powers, and the irreducibility test of 41_binary_poly R165. -/

namespace Sys2Proof.Machine

/-- The exclusive or of `g 0, …, g (n−1)`: every sum over GF(2) in the spec. -/
def xorSum : Nat → (Nat → Nat) → Nat
  | 0, _ => 0
  | n + 1, g => xorSum n g ^^^ g n

/-- The `n`-bit string whose bit `i` is `p i`. -/
def bitString (n : Nat) (p : Nat → Bool) : Nat := xorSum n (fun i => if p i then 1 <<< i else 0)

/-- The number of significant bits: `deg(a) + 1`, and 0 for the zero polynomial (R9: `deg(0) = −1`). -/
def bitLen (a : Nat) : Nat := if a = 0 then 0 else a.log2 + 1

/-- `deg(a)`, with `deg(0) = −1` (R9). -/
def polyDeg (a : Nat) : Int := (bitLen a : Int) - 1

/-- `a ⊗ b`, the carry-less product (R9). -/
def clmul (a b : Nat) : Nat := xorSum (bitLen b) (fun i => if b.testBit i then a <<< i else 0)

/-- `Σ x^(2i)` over the bits `i` of `a` (41 R154: bit `i` moves to bit `2i`). -/
def spreadBits (a : Nat) : Nat := xorSum (bitLen a) (fun i => if a.testBit i then 1 <<< (2 * i) else 0)

/-- Division of `r` by `b` of degree `db`, the quotient bits below `k` still to find: one degree-matched shift and subtract a
bit, from the top (41 R155). Answers (quotient, remainder). -/
def polyDivFrom (b db : Nat) : Nat → Nat → Nat × Nat
  | 0, r => (0, r)
  | k + 1, r =>
    if r.testBit (k + db) then
      let d := polyDivFrom b db k (r ^^^ (b <<< k))
      (d.1 ||| (1 <<< k), d.2)
    else polyDivFrom b db k r

/-- `(a div b, a mod b)` for `b ≠ 0` (R9); no command divides by 0, and this function then leaves `a`. -/
def polyDivMod (a b : Nat) : Nat × Nat :=
  if b = 0 then (0, a) else polyDivFrom b (bitLen b - 1) (bitLen a + 1 - bitLen b) a

/-- `a div b` (R9). -/
def polyDiv (a b : Nat) : Nat := (polyDivMod a b).1

/-- `a mod b` (R9). -/
def polyMod (a b : Nat) : Nat := (polyDivMod a b).2

/-- Euclid's loop with a bound on its rounds; the degree of `b` falls at each. -/
def polyGcdLoop : Nat → Nat → Nat → Nat
  | 0, a, _ => a
  | k + 1, a, b => if b = 0 then a else polyGcdLoop k b (polyMod a b)

/-- `gcd(a, b)` (R9), with `gcd(a, 0) = a`. -/
def polyGcd (a b : Nat) : Nat := polyGcdLoop (bitLen b + 1) a b

/-- `x^e` by square and multiply over the bits of `e` from the top (42 R210), `k` a bound on their number. -/
def powerLoop (mul : Nat → Nat → Nat) (one x : Nat) : Nat → Nat → Nat
  | 0, _ => one
  | k + 1, e =>
    let h := powerLoop mul one x k (e / 2)
    if e % 2 = 1 then mul (mul h h) x else mul h h

/-- `x^e` for a product with unit `one`. -/
def power (mul : Nat → Nat → Nat) (one x e : Nat) : Nat := powerLoop mul one x (bitLen e) e

/-- `f` applied `k` times. -/
def repeatTimes (f : Nat → Nat) : Nat → Nat → Nat
  | 0, x => x
  | k + 1, x => f (repeatTimes f k x)

/-- The rounds of the irreducibility test left to do, from `u` (41 R165): square `u` modulo `f`, and stop with 0 on a zero
difference from `x` or a gcd other than 1. -/
def irreducibleLoop (f : Nat) : Nat → Nat → Bool
  | 0, _ => true
  | k + 1, u =>
    let u' := polyMod (clmul u u) f
    let t := u' ^^^ 2
    if t = 0 then false else if polyGcd f t ≠ 1 then false else irreducibleLoop f k u'

/-- The irreducibility test of 41 R165 on `f`: `⌊deg/2⌋` rounds from `u = x`; 0 for the zero polynomial. A non-zero constant
gives `irrConst` (93 I9; this spec's rule gives 1). -/
def irreducible (irrConst : Bool) (f : Nat) : Bool :=
  if f = 0 then false
  else if bitLen f = 1 then irrConst
  else irreducibleLoop f ((bitLen f - 1) / 2) 2

/-- `x^n ⊕ x^k ⊕ 1` (41 R158). -/
def trinomial (n k : Nat) : Nat := 2 ^ n ^^^ 2 ^ k ^^^ 1

/-- `x^n ⊕ x^k3 ⊕ x^k2 ⊕ x^k1 ⊕ 1` (41 R160). -/
def pentanomial (n k1 k2 k3 : Nat) : Nat := 2 ^ n ^^^ 2 ^ k3 ^^^ 2 ^ k2 ^^^ 2 ^ k1 ^^^ 1

/-- How many bits of `a` are 1. -/
def weight (a : Nat) : Nat := ((List.range (bitLen a)).filter a.testBit).length

/-- A degree as a 32-bit two's-complement scalar, −1 as 0xFFFFFFFF (41 R159, 47 R363). -/
def degreeWord (d : Int) : Word := BitVec.ofInt 32 d

end Sys2Proof.Machine
end

