-- ==== Sys2Proof/Machine/FieldArith.lean ====
section
/-! DEFINITION. Arithmetic of the small field (42 R200 to R208) and of an extension-field context in polynomial or optimal
normal basis (43 R231, R232), and the change-of-basis matrix (44 R270). -/

namespace Sys2Proof.Machine

/-! ### The small field GF(2^m) -/

/-- A word is an element of the configured small field: its value is below `2^m` (42 R200). -/
def SmallField.isElem (F : SmallField) (v : Word) : Bool := decide (v.toNat < 2 ^ F.m.toNat)

/-- `F.mul`: the carry-less product reduced modulo the field polynomial (42 R204). -/
def SmallField.mul (F : SmallField) (a b : Nat) : Nat := polyMod (clmul a b) F.poly.toNat

/-- `x^e` in the small field (42 R207). -/
def SmallField.pow (F : SmallField) (x e : Nat) : Nat := power F.mul 1 x e

/-- `F.inv`: `x^(2^m − 2)` (42 R206). -/
def SmallField.inv (F : SmallField) (x : Nat) : Nat := F.pow x (2 ^ F.m.toNat - 2)

/-- `F.sqrt`: `m − 1` squarings (42 R208). -/
def SmallField.sqrt (F : SmallField) (x : Nat) : Nat := repeatTimes (fun y => F.mul y y) (F.m.toNat - 1) x

/-! ### Extension-field contexts

An element is the number whose bit `i` is its coordinate `a_i`: the coefficient of `t^i` (43 R231) or of `β^(2^i)` (R232). -/

/-- The degree `n` of a context. -/
def ExtField.deg (E : ExtField) : Nat := E.n.toNat

/-- Bit `i` of the result is bit `n − 1 − i` of `a`: the normal basis's reversed storage (20_memory R86). -/
def reverseBits (n a : Nat) : Nat := bitString n (fun i => a.testBit (n - 1 - i))

/-- The stored `n`-bit string of an element (20_memory R86). -/
def ExtField.toStored (E : ExtField) (x : Nat) : Nat :=
  match E.kind with
  | .poly => x
  | .onb1 | .onb2 => reverseBits E.deg x

/-- The element of a stored `n`-bit string (20_memory R86). -/
def ExtField.ofStored (E : ExtField) (v : Nat) : Nat :=
  match E.kind with
  | .poly => v
  | .onb1 | .onb2 => reverseBits E.deg v

/-- The prime that belongs to an optimal normal basis of degree `n`: `n + 1` for type I, `2n + 1` for type II (43 R232). -/
def onbPrime (kind : Kind) (n : Nat) : Nat :=
  match kind with
  | .poly => 0
  | .onb1 => n + 1
  | .onb2 => 2 * n + 1

/-- `p` is a prime number, by trial division. -/
def isPrime (p : Nat) : Bool := decide (2 ≤ p) && (List.range p).all (fun d => decide (d < 2) || p % d != 0)

/-- `min(v, p − v)`: the representative of `±v` modulo `p` (43 R232). -/
def plusMinus (p v : Nat) : Nat := min v (p - v)

/-- Entry `i` of the index map: `2^i mod p`, for type II its `±` representative (43 R232). -/
def onbIndex (kind : Kind) (n i : Nat) : Nat :=
  let p := onbPrime kind n
  match kind with
  | .poly => 0
  | .onb1 => 2 ^ i % p
  | .onb2 => plusMinus p (2 ^ i % p)

/-- The index map `k_0, …, k_(n−1)` (43 R232). -/
def onbIndexMap (kind : Kind) (n : Nat) : List Nat := (List.range n).map (onbIndex kind n)

/-- The basis exists: `p` is prime and the `n` index values are distinct (43 R232). -/
def onbExists (kind : Kind) (n : Nat) : Bool :=
  isPrime (onbPrime kind n) && decide (onbIndexMap kind n).Nodup

/-- `(f_k, f_(k+1))` of the recurrence `f_0 = 1, f_1 = x + 1, f_(k+1) = x·f_k + f_(k−1)` (43 R232). -/
def onb2Poly : Nat → Nat × Nat
  | 0 => (1, 3)
  | k + 1 => let f := onb2Poly k; (f.2, (f.2 <<< 1) ^^^ f.1)

/-- The minimal polynomial of `β`: all ones for type I, `f_n` for type II (43 R232). -/
def onbPoly (kind : Kind) (n : Nat) : Nat :=
  match kind with
  | .poly => 0
  | .onb1 => 2 ^ (n + 1) - 1
  | .onb2 => (onb2Poly n).1

/-- The unit vectors of the indices whose index-map value is `v` (43 R232). -/
def ExtField.unitAt (E : ExtField) (v : Nat) : Nat := bitString E.deg (fun i => E.indexMap.getD i 0 == v)

/-- The coordinates of `β^(2^i) · β^(2^j)` (43 R232): type I the index of `k_i + k_j`, or all ones when that sum is 0 modulo `p`;
type II the indices of `±(k_i + k_j)` and `±(k_i − k_j)`, a value of 0 modulo `p` contributing nothing. -/
def ExtField.onbTerm (E : ExtField) (i j : Nat) : Nat :=
  let p := onbPrime E.kind E.deg
  let ki := E.indexMap.getD i 0
  let kj := E.indexMap.getD j 0
  match E.kind with
  | .poly => 0
  | .onb1 => if (ki + kj) % p = 0 then 2 ^ E.deg - 1 else E.unitAt ((ki + kj) % p)
  | .onb2 =>
    let sum := (ki + kj) % p
    let diff := (ki + p - kj) % p
    (if sum = 0 then 0 else E.unitAt (plusMinus p sum)) ^^^ (if diff = 0 then 0 else E.unitAt (plusMinus p diff))

/-- The normal-basis product: the sum of the terms of all pairs `(i, j)` with `a_i = b_j = 1` (43 R232). -/
def ExtField.onbMul (E : ExtField) (a b : Nat) : Nat :=
  xorSum E.deg (fun i => if a.testBit i then xorSum E.deg (fun j => if b.testBit j then E.onbTerm i j else 0) else 0)

/-- The product of two elements: `(a ⊗ b) mod P_c` (43 R231) or the normal-basis product (R232). -/
def ExtField.mul (E : ExtField) (a b : Nat) : Nat :=
  match E.kind with
  | .poly => polyMod (clmul a b) E.poly
  | .onb1 | .onb2 => E.onbMul a b

/-- The one of a context: `a_0 = 1` alone (43 R231), or all coordinates 1 (R232). -/
def ExtField.one (E : ExtField) : Nat :=
  match E.kind with
  | .poly => 1
  | .onb1 | .onb2 => 2 ^ E.deg - 1

/-- The square of an element (43 R237). -/
def ExtField.sqr (E : ExtField) (a : Nat) : Nat := E.mul a a

/-- `x^e` in a context. -/
def ExtField.pow (E : ExtField) (x e : Nat) : Nat := power E.mul E.one x e

/-- `x^(2^k)`: `k` squarings. -/
def ExtField.frobenius (E : ExtField) (k x : Nat) : Nat := repeatTimes E.sqr k x

/-- `x^(2^n − 2)` (43 R238). -/
def ExtField.inv (E : ExtField) (x : Nat) : Nat := E.pow x (2 ^ E.deg - 2)

/-- `x^(2^(n−1))` (43 R239). -/
def ExtField.sqrt (E : ExtField) (x : Nat) : Nat := E.frobenius (E.deg - 1) x

/-- `x + x^2 + x^4 + … + x^(2^(n−1))` (43 R240). -/
def ExtField.trace (E : ExtField) (x : Nat) : Nat := xorSum E.deg (fun i => E.frobenius i x)

/-- `Σ x^(2^(2i))` for `i` from 0 to `(n−1)/2` (43 R241). -/
def ExtField.halfTrace (E : ExtField) (x : Nat) : Nat :=
  xorSum ((E.deg - 1) / 2 + 1) (fun i => E.frobenius (2 * i) x)

/-- The rounds of the quadratic solver for candidate `p`: from `(z, w)`, `z ← z^2 + w^2·c` then `w ← w^2 + p` (43 R242). -/
def ExtField.solveRounds (E : ExtField) (c p : Nat) : Nat → Nat × Nat
  | 0 => (0, p)
  | k + 1 =>
    let zw := E.solveRounds c p k
    (E.sqr zw.1 ^^^ E.mul (E.sqr zw.2) c, E.sqr zw.2 ^^^ p)

/-- `Q(r)` in a context, for a polynomial `Q` over GF(2). -/
def ExtField.evalPoly (E : ExtField) (Q r : Nat) : Nat :=
  xorSum (bitLen Q) (fun i => if Q.testBit i then E.pow r i else 0)

/-- `r` is a root of `Q` in the context (44 R270). -/
def ExtField.isRoot (E : ExtField) (Q r : Nat) : Bool := E.evalPoly Q r == 0

/-- Row `j` of the change-of-basis matrix of root `r` from `A` to `B`: `r^j` or `r^(2^j)` (44 R270). -/
def cobRow (A B : ExtField) (r j : Nat) : Nat :=
  match A.kind with
  | .poly => B.pow r j
  | .onb1 | .onb2 => B.frobenius j r

/-- The change-of-basis matrix `M_r` from `A` to `B` (44 R270). -/
def cobMatrix (A B : ExtField) (r : Nat) : List Nat := (List.range A.deg).map (cobRow A B r)

end Sys2Proof.Machine
end

