-- ==== Sys2Proof/Machine/GoppaArith.lean ====
section
/-! DEFINITION. Polynomials over the small field as coefficient lists, entry `i` the coefficient of `x^i` (00_scope R10,
20_memory R89), in normal form: no zero coefficient at the top, the zero polynomial the empty list. -/

namespace Sys2Proof.Machine

/-- The normal form of a coefficient list: its zero coefficients at the top removed (20_memory R89). -/
def gpTrim : List Nat → List Nat
  | [] => []
  | c :: cs =>
    match gpTrim cs with
    | [] => if c = 0 then [] else [c]
    | d :: ds => c :: d :: ds

/-- The degree of a polynomial in normal form, −1 for zero (20_memory R89). -/
def gpDeg (a : List Nat) : Int := (a.length : Int) - 1

/-- The leading coefficient of a polynomial in normal form. -/
def gpLead (a : List Nat) : Nat := a.getD (a.length - 1) 0

/-- `a + b`, coefficient-wise (47 R351). -/
def gpAdd (a b : List Nat) : List Nat :=
  gpTrim ((List.range (max a.length b.length)).map (fun i => a.getD i 0 ^^^ b.getD i 0))

/-- `e · a` (47 R352). -/
def gpScale (F : SmallField) (e : Nat) (a : List Nat) : List Nat := gpTrim (a.map (F.mul e))

/-- `a · x^k` (47 R364). -/
def gpShift (k : Nat) (a : List Nat) : List Nat := if a = [] then [] else List.replicate k 0 ++ a

/-- `a · b`: coefficient `k` is `Σ F.mul(a[i], b[k−i])` (47 R353). -/
def gpMul (F : SmallField) (a b : List Nat) : List Nat :=
  gpTrim ((List.range (a.length + b.length - 1)).map (fun k =>
    xorSum (k + 1) (fun i => F.mul (a.getD i 0) (b.getD (k - i) 0))))

/-- Division of `r` by `b`, the quotient coefficients below `x^k` still to find, from the top; `v` is the inverse of `b`'s leading
coefficient (47 R354). Answers (quotient coefficients below `x^k`, remainder), neither in normal form. -/
def gpDivFrom (F : SmallField) (b : List Nat) (v : Nat) : Nat → List Nat → List Nat × List Nat
  | 0, r => ([], r)
  | k + 1, r =>
    let f := F.mul v (r.getD (k + (b.length - 1)) 0)
    let d := gpDivFrom F b v k (gpAdd r (gpShift k (gpScale F f b)))
    (d.1 ++ [f], d.2)

/-- The pair `(Q, R)` with `a = Q·b + R` and `deg R < deg b`, for `b` in normal form and not zero (47 R354). -/
def gpDivMod (F : SmallField) (a b : List Nat) : List Nat × List Nat :=
  let d := gpDivFrom F b (F.inv (gpLead b)) (a.length + 1 - b.length) a
  (gpTrim d.1, gpTrim d.2)

/-- `a mod b` (47 R355). -/
def gpMod (F : SmallField) (a b : List Nat) : List Nat := (gpDivMod F a b).2

/-- `a div b` (47 R354). -/
def gpDiv (F : SmallField) (a b : List Nat) : List Nat := (gpDivMod F a b).1

/-- Euclid's loop with a bound on its rounds (47 R356). -/
def gpGcdLoop (F : SmallField) : Nat → List Nat → List Nat → List Nat
  | 0, a, _ => a
  | k + 1, a, b => if b = [] then a else gpGcdLoop F k b (gpMod F a b)

/-- A polynomial divided by its leading coefficient. -/
def gpMonic (F : SmallField) (a : List Nat) : List Nat := gpScale F (F.inv (gpLead a)) a

/-- The monic gcd (47 R356). -/
def gpGcd (F : SmallField) (a b : List Nat) : List Nat := gpMonic F (gpGcdLoop F (b.length + 1) a b)

/-- The extended Euclidean loop: from `(r0, u0)` and `(r1, u1)`, each `r` a multiple of the operand by `u` modulo the modulus, to
the last non-zero `r` and its `u` (47 R358). -/
def gpExtLoop (F : SmallField) : Nat → List Nat → List Nat → List Nat → List Nat → List Nat × List Nat
  | 0, r0, u0, _, _ => (r0, u0)
  | k + 1, r0, u0, r1, u1 =>
    if r1 = [] then (r0, u0)
    else
      let d := gpDivMod F r0 r1
      gpExtLoop F k r1 u1 d.2 (gpAdd u0 (gpMul F d.1 u1))

/-- The inverse of `a` modulo `g`, or nothing where `gcd(a, g) ≠ 1` (47 R358). -/
def gpModInv (F : SmallField) (a g : List Nat) : Option (List Nat) :=
  let d := gpExtLoop F (a.length + 1) g [] a [1]
  if d.1.length = 1 then some (gpMod F (gpScale F (F.inv (gpLead d.1)) d.2) g) else none

/-- `u^(2^k) mod f`: `k` squarings modulo `f` (47 R362). -/
def gpFrobenius (F : SmallField) (f : List Nat) : Nat → List Nat → List Nat
  | 0, u => u
  | k + 1, u => let h := gpFrobenius F f k u; gpMod F (gpMul F h h) f

/-- The rounds of the irreducibility test left to do, from `u` (47 R362). -/
def gpIrreducibleLoop (F : SmallField) (f : List Nat) : Nat → List Nat → Bool
  | 0, _ => true
  | k + 1, u =>
    let u' := gpFrobenius F f F.m.toNat u
    let t := gpAdd u' [0, 1]
    if t = [] then false
    else if (gpGcd F f t).length ≠ 1 then false
    else gpIrreducibleLoop F f k u'

/-- The irreducibility test over the small field (47 R362): `⌊deg/2⌋` rounds from `u = x`; 0 for the zero polynomial, and
`irrConst` for a non-zero constant (93 I9; this spec's rule gives 1). -/
def gpIrreducible (irrConst : Bool) (F : SmallField) (f : List Nat) : Bool :=
  if f = [] then false
  else if f.length = 1 then irrConst
  else gpIrreducibleLoop F f ((f.length - 1) / 2) [0, 1]

/-- `A + x^k`: coefficient `k` exclusive or 1 (47 R365). -/
def gpAddMono (a : List Nat) (k : Nat) : List Nat :=
  if a.length ≤ k then a ++ List.replicate (k - a.length) 0 ++ [1] else gpTrim (a.set k (a.getD k 0 ^^^ 1))

/-- Entry `j` of map polynomial `M_i`, for a map of `t` polynomials of `t` slots (20_memory R91); a map that holds one polynomial
per input coefficient is read transposed (93 I13). -/
def mapAt (o : MapOrient) (t : Nat) (cells : List Nat) (i j : Nat) : Nat :=
  match o with
  | .rowIsOutput => cells.getD (i * t + j) 0
  | .rowIsInput => cells.getD (j * t + i) 0

/-- `Σ_i r_i x^i` with `r_i = Σ_j F.mul(M_i[j], F.mul(A[j], A[j]))` (47 R360). -/
def gpSquareMap (F : SmallField) (o : MapOrient) (t : Nat) (cells a : List Nat) : List Nat :=
  gpTrim ((List.range t).map (fun i =>
    xorSum t (fun j => F.mul (mapAt o t cells i j) (F.mul (a.getD j 0) (a.getD j 0)))))

/-- `Σ_i r_i x^i` with `r_i = F.sqrt(Σ_j F.mul(M_i[j], A[j]))` (47 R361). -/
def gpSqrtMap (F : SmallField) (o : MapOrient) (t : Nat) (cells a : List Nat) : List Nat :=
  gpTrim ((List.range t).map (fun i => F.sqrt (xorSum t (fun j => F.mul (mapAt o t cells i j) (a.getD j 0)))))

end Sys2Proof.Machine
end

