-- ==== Sys2Proof/Machine/MatrixArith.lean ====
section
/-! DEFINITION. Matrices over GF(2), a row the number whose bit `j` is column `j` (45 R301 to R305), and over the small field, a
row the list of its cells (46 R331): products, transpose and the inverse by Gaussian elimination. -/

namespace Sys2Proof.Machine

/-- Row `i` of a GF(2) matrix; rows past the last read as zero. -/
def rowAt (rows : List Nat) (i : Nat) : Nat := rows.getD i 0

/-- The row vector `v` of `r` entries times a matrix: the sum of the rows `k` with `v[k] = 1` (45 R302). -/
def vecMat (r v : Nat) (rows : List Nat) : Nat := xorSum r (fun k => if v.testBit k then rowAt rows k else 0)

/-- The parity of the first `c` bits of `v`. -/
def parity (c v : Nat) : Bool := (xorSum c (fun k => if v.testBit k then 1 else 0)) == 1

/-- The matrix of `r` rows and `c` columns times a column vector: entry `i` is the parity of row `i` and `v` (45 R303). -/
def matVec (r c : Nat) (rows : List Nat) (v : Nat) : Nat := bitString r (fun i => parity c (rowAt rows i &&& v))

/-- The product of an `r × k` and a `k × _` matrix (45 R301). -/
def matMul (r k : Nat) (a b : List Nat) : List Nat := (List.range r).map (fun i => vecMat k (rowAt a i) b)

/-- The transpose of an `r × c` matrix: `c` rows of `r` bits (45 R305). -/
def transpose (r c : Nat) (a : List Nat) : List Nat :=
  (List.range c).map (fun j => bitString r (fun i => (rowAt a i).testBit j))

/-- The identity of size `n`. -/
def identity (n : Nat) : List Nat := (List.range n).map (fun i => 1 <<< i)

/-- The least `r` with `c ≤ r < n` that satisfies `p`, by looking at `k` rows from `r = n − k` on. -/
def leastFrom (p : Nat → Bool) (n : Nat) : Nat → Option Nat
  | 0 => none
  | k + 1 => if p (n - (k + 1)) then some (n - (k + 1)) else leastFrom p n k

/-- The entries of a list with those at `i` and `j` exchanged, rebuilt for `n` rows with default `d`. -/
def swapRows {α : Type} (d : α) (n i j : Nat) (l : List α) : List α :=
  (List.range n).map (fun r => if r = i then l.getD j d else if r = j then l.getD i d else l.getD r d)

/-- One column of the elimination over GF(2): find the pivot downwards, exchange rows, and add the pivot row to every other row
with a 1 in the column (45 R304). Rows are pairs (row of A, row of I). No pivot: singular. -/
def eliminate2 (n c : Nat) (rows : List (Nat × Nat)) : Option (List (Nat × Nat)) :=
  match leastFrom (fun r => (rows.getD r (0, 0)).1.testBit c) n (n - c) with
  | none => none
  | some p =>
    let sw := swapRows (0, 0) n c p rows
    let piv := sw.getD c (0, 0)
    some ((List.range n).map (fun r =>
      let row := sw.getD r (0, 0)
      if r ≠ c ∧ row.1.testBit c = true then (row.1 ^^^ piv.1, row.2 ^^^ piv.2) else row))

/-- The columns `0, …, c−1` in order (45 R304). -/
def eliminateCols2 (n : Nat) (rows : List (Nat × Nat)) : Nat → Option (List (Nat × Nat))
  | 0 => some rows
  | c + 1 => (eliminateCols2 n rows c).bind (eliminate2 n c)

/-- The inverse of an `n × n` GF(2) matrix by Gaussian elimination, or nothing if it is singular (45 R304). -/
def matInv (n : Nat) (a : List Nat) : Option (List Nat) :=
  (eliminateCols2 n ((List.range n).map (fun i => (rowAt a i, 1 <<< i))) n).map (fun l => l.map Prod.snd)

/-! ### Over the small field -/

/-- Cell `(i, j)` of a matrix over the small field; cells past the last read as zero. -/
def cellAt (rows : List (List Nat)) (i j : Nat) : Nat := (rows.getD i []).getD j 0

/-- `v` times a row of `n` cells. -/
def scaleRow (F : SmallField) (n v : Nat) (row : List Nat) : List Nat :=
  (List.range n).map (fun j => F.mul v (row.getD j 0))

/-- `row + f · piv`, cell by cell (46 R331). -/
def addScaledRow (F : SmallField) (n f : Nat) (row piv : List Nat) : List Nat :=
  (List.range n).map (fun j => row.getD j 0 ^^^ F.mul f (piv.getD j 0))

/-- One column of the elimination over the small field: find the pivot downwards, exchange rows, scale the pivot row to a leading
1, and clear the column in every other row (46 R331). Rows are pairs (row of A, row of I). -/
def eliminateM (F : SmallField) (n c : Nat) (rows : List (List Nat × List Nat)) : Option (List (List Nat × List Nat)) :=
  match leastFrom (fun r => (rows.getD r ([], [])).1.getD c 0 != 0) n (n - c) with
  | none => none
  | some p =>
    let sw := swapRows ([], []) n c p rows
    let v := F.inv ((sw.getD c ([], [])).1.getD c 0)
    let pa := scaleRow F n v (sw.getD c ([], [])).1
    let pi := scaleRow F n v (sw.getD c ([], [])).2
    some ((List.range n).map (fun r =>
      let row := sw.getD r ([], [])
      let f := row.1.getD c 0
      if r = c then (pa, pi)
      else if f ≠ 0 then (addScaledRow F n f row.1 pa, addScaledRow F n f row.2 pi)
      else row))

/-- The columns `0, …, c−1` in order (46 R331). -/
def eliminateColsM (F : SmallField) (n : Nat) (rows : List (List Nat × List Nat)) :
    Nat → Option (List (List Nat × List Nat))
  | 0 => some rows
  | c + 1 => (eliminateColsM F n rows c).bind (eliminateM F n c)

/-- The inverse of an `n × n` matrix over the small field, or nothing if it is singular (46 R331). -/
def matInvM (F : SmallField) (n : Nat) (a : List (List Nat)) : Option (List (List Nat)) :=
  (eliminateColsM F n ((List.range n).map (fun i =>
    (a.getD i [], (List.range n).map (fun j => if i = j then 1 else 0)))) n).map (fun l => l.map Prod.snd)

end Sys2Proof.Machine
end

