-- ==== Sys2Proof/Machine/Flags.lean ====
section
/-! DEFINITION. STATUS, IE and the error codes as the words software sees, STATUS's write-one-to-clear, and the IRQ line. The block
has no condition flags (40_control). -/

namespace Sys2Proof.Machine

/-- The number of an error code (60_exceptions R400). -/
def ErrCode.code : ErrCode → BitVec 8
  | .illegalCmd => 0x01
  | .bounds => 0x02
  | .capacity => 0x03
  | .dstOverlap => 0x04
  | .illegalParam => 0x05
  | .index => 0x06
  | .divZero => 0x07
  | .gcdZero => 0x08
  | .invZero => 0x09
  | .notInvertible => 0x0A
  | .singular => 0x0B
  | .dim => 0x0C
  | .fieldInvalid => 0x0D
  | .illegalField => 0x0E
  | .illegalElem => 0x0F
  | .fieldMismatch => 0x10
  | .noSolution => 0x11
  | .searchLimit => 0x12
  | .cacheFull => 0x13
  | .notImplemented => 0x14
  | .malformedEncoding => 0x15
  | .degreeParity => 0x16

/-- One status bit as a word: 1 at bit `k`, or 0. -/
def bitWord (b : Bool) (k : Nat) : Word := if b then 1#32 <<< k else 0#32

/-- STATUS.BUSY: 1 exactly in phase busy (10_state R48). -/
def State.isBusy (s : State) : Bool := s.phase == .busy

/-- STATUS as it reads (10_state R33): BUSY 0, DONE 1, ERR 2, REJ 3, BUSYACC 4, ERRCODE 15:8, every other bit 0. -/
def State.statusWord (s : State) : Word :=
  bitWord s.isBusy 0 ||| bitWord s.status.done 1 ||| bitWord s.status.err 2 ||| bitWord s.status.rej 3
    ||| bitWord s.status.busyacc 4 ||| (s.status.errcode.setWidth 32 <<< 8)

/-- A host write of `v` to STATUS (10_state R33): DONE, ERR, REJ and BUSYACC are cleared where `v` has a 1; clearing ERR sets
ERRCODE to 0; every other bit of `v` has no effect. -/
def Status.writeOneToClear (t : Status) (v : Word) : Status :=
  { done := t.done && !v.getLsbD 1
    err := t.err && !v.getLsbD 2
    rej := t.rej && !v.getLsbD 3
    busyacc := t.busyacc && !v.getLsbD 4
    errcode := if v.getLsbD 2 then 0 else t.errcode }

/-- IE as it reads (10_state R35): DONE_IE 0, ERR_IE 1, every other bit 0. -/
def IntEnable.word (e : IntEnable) : Word := bitWord e.doneIE 0 ||| bitWord e.errIE 1

/-- IE after a host write of `v` (10_state R35): bits 31:2 are ignored. -/
def IntEnable.ofWord (v : Word) : IntEnable := { doneIE := v.getLsbD 0, errIE := v.getLsbD 1 }

/-- The IRQ output: `(DONE ∧ DONE_IE) ∨ (ERR ∧ ERR_IE)` (10_state R50, 60 R405). -/
def State.irq (s : State) : Bool := (s.status.done && s.ie.doneIE) || (s.status.err && s.ie.errIE)

end Sys2Proof.Machine
end

