-- ==== Sys2Proof/Syntax.lean ====
section
/-! DEFINITION. The commands of IC11-FFA: one constructor for each of the 68 rows of the opcode map (30_encoding R117).
Operands stand in field order F1, F2, F3, F4, then ALG, then CTX. -/

namespace Sys2Proof

/-- A descriptor register number, DESC0 to DESC7 (30_encoding R111, kind `D`). -/
abbrev DReg := Fin 8

/-- A scalar register number, S0 to S7 (30_encoding R111, kinds `S` and `Sb`). -/
abbrev SReg := Fin 8

/-- Which extension-field context a command uses: CTX = 0 or 1 (30_encoding R110). -/
inductive Ctx where
  | efc0
  | efc1
deriving DecidableEq, Repr

/-- BP.SQR's algorithm selector (30_encoding R114); it never changes a result. -/
inductive SqrAlg where
  | interleave
  | table
deriving DecidableEq, Repr

/-- EF.INV's algorithm selector (30_encoding R114); it never changes a result. -/
inductive InvAlg where
  | almostInverse
  | extendedEuclid
  | repeatedSquaring
deriving DecidableEq, Repr

/-- The 68 commands (30_encoding R117). -/
inductive Instr where
  -- control (40_control)
  | nop
  -- binary polynomials (41_binary_poly)
  | bpAdd (dst a b : DReg)
  | bpMulc (dst a b : DReg)
  | bpMulk (dst a b : DReg)
  | bpSqr (dst a : DReg) (alg : SqrAlg)
  | bpDiv (quot a b rem : DReg)
  | bpRem (dst a b : DReg)
  | bpGcd (dst a b : DReg)
  | bpRedt (dst a : DReg) (base : SReg)
  | bpRedp (dst a : DReg) (base : SReg)
  | bpDeg (dst : SReg) (a : DReg)
  | bpBget (dst : SReg) (a : DReg) (index : SReg)
  | bpBset (poly : DReg) (index : SReg)
  | bpBclr (poly : DReg) (index : SReg)
  | bpBxor (poly : DReg) (index : SReg)
  | bpIrr (dst : SReg) (a : DReg)
  -- small field (42_small_field)
  | sfCfg (m poly : SReg)
  | sfAdd (dst a b : SReg)
  | sfMul (dst a b : SReg)
  | sfSqr (dst a : SReg)
  | sfExp (dst a k : SReg)
  | sfInv (dst a : SReg)
  | sfSqrt (dst a : SReg)
  | sfIsel (dst a : SReg)
  -- extension field (43_ext_field)
  | efCfg (poly : DReg) (base : SReg) (ctx : Ctx)
  | efAdd (dst a b : DReg) (ctx : Ctx)
  | efMul (dst a b : DReg) (ctx : Ctx)
  | efSqr (dst a : DReg) (ctx : Ctx)
  | efInv (dst a : DReg) (alg : InvAlg) (ctx : Ctx)
  | efSqrt (dst a : DReg) (ctx : Ctx)
  | efTrace (dst : SReg) (a : DReg) (ctx : Ctx)
  | efHtrace (dst a : DReg) (ctx : Ctx)
  | efSolveq (dst a : DReg) (ctx : Ctx)
  | efGetp (dst : DReg) (ctx : Ctx)
  -- basis conversion (44_basis_conversion)
  | efRoot (dst : DReg) (ctx : Ctx)
  | efCob (ctx : Ctx)
  | efConv (dst a : DReg) (ctx : Ctx)
  | efFlush
  -- GF(2) matrices (45_gf2_matrix)
  | m2Mul (dst a b : DReg)
  | m2Vmul (dst v m : DReg)
  | m2Mulv (dst m v : DReg)
  | m2Inv (dst a : DReg)
  | m2Trn (dst a : DReg)
  | m2Isz (dst : SReg) (a : DReg)
  | m2Dec (dst img : DReg)
  | m2Enc (img a : DReg)
  -- GF(2^m) matrices (46_gf2m_matrix)
  | m2mInv (dst a : DReg)
  | m2mRmulm (dst a b : DReg)
  | m2mRmulv (dst a v : DReg)
  | m2mLmulv (dst v a : DReg)
  | m2mLmulm (dst a b : DReg)
  | m2mDec (dst img : DReg)
  | m2mEnc (img a : DReg)
  -- Goppa polynomials (47_goppa)
  | gpAdd (dst a b : DReg)
  | gpSmul (dst a : DReg) (e : SReg)
  | gpMul (dst a b : DReg)
  | gpDiv (quot a b rem : DReg)
  | gpMod (dst a b : DReg)
  | gpGcd (dst a b : DReg)
  | gpMmul (dst a b g : DReg)
  | gpMinv (dst a g : DReg)
  | gpMdiv (dst a b g : DReg)
  | gpSqm (dst a map : DReg)
  | gpSqrtm (dst a map : DReg)
  | gpIrr (dst : SReg) (a : DReg)
  | gpDeg (dst : SReg) (a : DReg)
  | gpMono (dst a : DReg) (k : SReg)
  | gpAddm (dst a : DReg) (k : SReg)
deriving DecidableEq, Repr

end Sys2Proof
end

