-- ==== Sys2Proof/Machine/Ops.lean ====
section
/-! DEFINITION. The named operations every command is written with: bytes and words of operand memory, the registers, the checks,
how a command is accepted, completes, or latches an error, and the random source. -/

namespace Sys2Proof.Machine

/-- The outcome of a command or a step. -/
abbrev Result := Host.Outcome State Fault Refusal

/-! ### Operand memory -/

/-- The byte stored at byte offset `a`, if anything has written it. -/
def Memory.get? : Memory → Nat → Option Byte
  | [], _ => none
  | (b, v) :: m, a => if a = b then some v else Memory.get? m a

/-- Memory after byte `v` is stored at byte offset `a`; offsets stay strictly rising. -/
def Memory.set : Memory → Nat → Byte → Memory
  | [], a, v => [(a, v)]
  | (b, u) :: m, a, v =>
    if a < b then (a, v) :: (b, u) :: m
    else if a = b then (a, v) :: m
    else (b, u) :: Memory.set m a v

/-- The one canonical form: byte offsets strictly rising. An unlisted byte has no value of its own, so no entry can equal what an
unlisted byte reads as. -/
def Memory.wf : Memory → Bool
  | [] => true
  | [_] => true
  | (a, _) :: (b, v) :: m => decide (a < b) && Memory.wf ((b, v) :: m)

/-- Memory after the bytes `vs` are stored from byte offset `a` on. -/
def Memory.setBytes : Memory → Nat → List Byte → Memory
  | m, _, [] => m
  | m, a, v :: vs => Memory.setBytes (Memory.set m a v) (a + 1) vs

/-- The four bytes of a word, least significant first (20_memory R97). -/
def bytesOfWord (w : Word) : List Byte :=
  [w.extractLsb' 0 8, w.extractLsb' 8 8, w.extractLsb' 16 8, w.extractLsb' 24 8]

/-- The byte at byte offset `a` of OM: what was written there, or else the free value of a byte nothing has written since reset
(20_memory R103; log entry 7). -/
def State.readByte (s : State) (a : Nat) : Byte := (s.om.get? a).getD (Config.omAfterReset s.env.resets a)

/-- `OM[w]`: its byte `k` at byte offset `4w + k` (20_memory R80, R97). -/
def State.readWord (s : State) (w : Nat) : Word :=
  s.readByte (4 * w + 3) ++ s.readByte (4 * w + 2) ++ s.readByte (4 * w + 1) ++ s.readByte (4 * w)

/-- `MemRead(w, k)` (00_scope R11). -/
def State.readWords (s : State) (w k : Nat) : List Word := (List.range k).map (fun i => s.readWord (w + i))

/-- `k` words from word `w` as one number, the first word least significant. -/
def State.readNat (s : State) (w : Nat) : Nat → Nat
  | 0 => 0
  | k + 1 => (s.readWord w).toNat + 2 ^ 32 * s.readNat (w + 1) k

/-- Byte `k` of the byte image at word `w` (20_memory R90), as a number. -/
def State.imageByte (s : State) (w k : Nat) : Nat := (s.readByte (4 * w + k)).toNat

/-- The state after the bytes `vs` are stored from word `w` on. -/
def State.writeBytes (s : State) (w : Nat) (vs : List Byte) : State := { s with om := s.om.setBytes (4 * w) vs }

/-- `MemWrite(w, k, ws)` (00_scope R11). -/
def State.writeWords (s : State) (w : Nat) (ws : List Word) : State := s.writeBytes w (ws.flatMap bytesOfWord)

/-- The `k` words of a number, the first word least significant. -/
def wordsOfNat (v : Nat) : Nat → List Word
  | 0 => []
  | k + 1 => BitVec.ofNat 32 v :: wordsOfNat (v >>> 32) k

/-! ### Registers -/

/-- Scalar register `k` (10_state R40). -/
def State.S (s : State) (k : SReg) : Word := s.scalars[k.val]

/-- `S[k] <- v` (10_state R40). -/
def State.setS (s : State) (k : SReg) (v : Word) : State := { s with scalars := s.scalars.set k.val v }

/-- Scalar register `b + i` of a scalar base (30_encoding R111); a base past S7 never gets here (R113). -/
def State.Sb (s : State) (b : SReg) (i : Nat) : Word := s.scalars.toList.getD (b.val + i) 0

/-- Descriptor register `d` (10_state R41). -/
def State.D (s : State) (d : DReg) : Desc := s.descs[d.val]

/-- The state with descriptor `d` replaced. -/
def State.setD (s : State) (d : DReg) (v : Desc) : State := { s with descs := s.descs.set d.val v }

/-- `D[d].LEN <- n` (10_state R41). -/
def State.setLen (s : State) (d : DReg) (n : Nat) : State := s.setD d { s.D d with len := BitVec.ofNat 32 n }

/-- `D[d].ROWS <- r; D[d].COLS <- c` (10_state R41). -/
def State.setShape (s : State) (d : DReg) (r c : Nat) : State :=
  s.setD d { s.D d with rows := BitVec.ofNat 32 r, cols := BitVec.ofNat 32 c }

/-- The other context, `1 − c` (44_basis_conversion). -/
def otherCtx : Ctx → Ctx
  | .efc0 => .efc1
  | .efc1 => .efc0

/-- Extension-field context `c` (10_state R45). -/
def State.efc (s : State) : Ctx → ExtField
  | .efc0 => s.efc0
  | .efc1 => s.efc1

/-- The state with context `c` replaced. -/
def State.setEfc (s : State) (c : Ctx) (E : ExtField) : State :=
  match c with
  | .efc0 => { s with efc0 := E }
  | .efc1 => { s with efc1 := E }

/-- COB_USED: the number of cache entries (10_state R44). -/
def State.cobUsed (s : State) : Nat := s.cob.length

/-! ### Checks, completion and the error latch -/

/-- `check(cond, CODE)` (00_scope R11): the command goes on, or ends with the error. -/
def check (c : Prop) [Decidable c] (e : ErrCode) : Except ErrCode Unit := if c then .ok () else .error e

/-- ITERCNT for `j` candidates (10_state R39); a count that does not fit is a free value (log entry 11). -/
def iterWord (j : Nat) : Word := if j < 2 ^ 32 then BitVec.ofNat 32 j else Config.iterCntOverflow j

/-- Completion without error, after `t`'s commit and with `j` candidates drawn (70 R450). -/
def State.complete (t : State) (j : Nat) : State :=
  { t with phase := .idle, status := { t.status with done := true }, itercnt := iterWord j, candidates := 0 }

/-- TAKING AN ERROR: the error latch (60_exceptions R402). Nothing the command would have written is written. -/
def State.latch (s : State) (e : ErrCode) (j : Nat) : State :=
  { s with
    phase := .idle
    status := { s.status with done := true, err := true, errcode := e.code }
    errcmd := s.cmd
    itercnt := iterWord j
    candidates := 0 }

/-- RECOVERING FROM AN ERROR: a host write of 1 to STATUS.ERR clears ERR and ERRCODE; ERRCMD stays (60_exceptions R403). -/
def State.clearStatus (s : State) (v : Word) : State := { s with status := s.status.writeOneToClear v }

/-- The end of a command that draws no candidate: its commit, or the error of its first failing check (00_scope R12, R13). -/
def finish (s : State) (r : Except ErrCode State) : Result :=
  match r with
  | .ok t => .next (t.complete 0)
  | .error e => .next (s.latch e 0)

/-- The error of the first failing check before a command's last part, or that part. -/
def afterChecks (s : State) (r : Except ErrCode Unit) (last : Result) : Result :=
  match r with
  | .ok _ => last
  | .error e => .next (s.latch e 0)

/-! ### Issue -/

/-- The acceptance of command word `w` (70 R451). -/
def State.accept (s : State) (w : Word) : State :=
  { s with
    cmd := w
    phase := .busy
    status := { s.status with done := false }
    cmdseq := s.cmdseq + 1
    candidates := 0 }

/-- A host write of `w` to CMD: accepted while IDLE with ERR = 0, otherwise rejected (70 R451). -/
def State.issue (s : State) (w : Word) : State :=
  if s.phase = .idle ∧ s.status.err = false then s.accept w
  else { s with status := { s.status with rej := true } }

/-! ### The random source and the spec's choices -/

/-- The environment's next answer: a pending one, or the free value (00_scope R14; log entry 4). -/
def State.takeAnswer (s : State) : Nat × State :=
  match s.env.answers with
  | a :: rest => (a, { s with env := { s.env with answers := rest, answered := s.env.answered + 1 } })
  | [] => (Config.answer s.env.answered, { s with env := { s.env with answered := s.env.answered + 1 } })

/-- `k` draws of the random source as one number, the first word least significant (10_state R51, 43 R243). -/
def State.drawWords (s : State) : Nat → Nat × State
  | 0 => (0, s)
  | k + 1 =>
    let a := s.takeAnswer
    let r := a.2.drawWords k
    (a.1 % 2 ^ 32 + 2 ^ 32 * r.1, r.2)

/-- One turn of a randomized search (43 R242, 44 R271): end with SEARCH_LIMIT when ITERCAP candidates are drawn; otherwise draw
one candidate, and complete with `found` if it succeeds or stay BUSY if it does not (log entry 5). -/
def searchTurn (s : State) (candidate : State → Option Nat × State) (found : State → Nat → Except ErrCode State) :
    Result :=
  if s.itercap ≠ 0 ∧ s.candidates = s.itercap.toNat then .next (s.latch .searchLimit s.candidates)
  else
    let d := candidate s
    let s' := { d.2 with candidates := s.candidates + 1 }
    match d.1 with
    | none => .next s'
    | some r =>
      match found s' r with
      | .ok t => .next (t.complete (s.candidates + 1))
      | .error e => .next (s'.latch e (s.candidates + 1))

end Sys2Proof.Machine
end

