-- ==== Sys2Proof/Machine/Operands.lean ====
section
/-! DEFINITION. Operands in operand memory: the descriptor checks (20_memory R83), and reading and writing each layout
(R84 to R91). -/

namespace Sys2Proof.Machine

/-- The operand's first word, `D.BASE`. -/
def State.base (s : State) (d : DReg) : Nat := (s.D d).base.toNat

/-- `D.LEN`. -/
def State.len (s : State) (d : DReg) : Nat := (s.D d).len.toNat

/-- `D.ROWS`. -/
def State.rows (s : State) (d : DReg) : Nat := (s.D d).rows.toNat

/-- `D.COLS`. -/
def State.cols (s : State) (d : DReg) : Nat := (s.D d).cols.toNat

/-- `D.CAP`. -/
def State.cap (s : State) (d : DReg) : Nat := (s.D d).cap.toNat

/-! ### Descriptor checks -/

/-- `D.BASE + D.CAP ≤ OM_WORDS`, computed without wrap-around (R83). -/
abbrev State.inOm (s : State) (d : DReg) : Prop := s.base d + s.cap d ≤ s.params.omWords.toNat

/-- A destination lies in OM, else BOUNDS (R83). -/
def State.checkDst (s : State) (d : DReg) : Except ErrCode Unit :=
  check (s.inOm d) .bounds

/-- A source lies in OM and its footprint fits its CAP, else BOUNDS (R83). -/
def State.checkSrc (s : State) (d : DReg) (footprint : Nat) : Except ErrCode Unit := do
  check (s.inOm d) .bounds
  check (footprint ≤ s.cap d) .bounds

/-- A result's footprint fits its destination's CAP, else CAPACITY (R94). -/
def State.checkCap (s : State) (d : DReg) (footprint : Nat) : Except ErrCode Unit :=
  check (footprint ≤ s.cap d) .capacity

/-- A binary polynomial or GF(2) vector as source (R84, R85). -/
def State.checkPoly (s : State) (d : DReg) : Except ErrCode Unit := s.checkSrc d (wordsFor (s.len d))

/-- An extension-field element as source: bounds, then LEN = n, else DIM (R86, 43 R234). -/
def State.checkElem (s : State) (E : ExtField) (d : DReg) : Except ErrCode Unit := do
  s.checkPoly d
  check (s.len d = E.deg) .dim

/-- A GF(2) matrix as source: bounds, then a row and a column at least, else DIM (R87, 45 R300). -/
def State.checkMat2 (s : State) (d : DReg) : Except ErrCode Unit := do
  s.checkSrc d (s.rows d * wordsFor (s.cols d))
  check (1 ≤ s.rows d ∧ 1 ≤ s.cols d) .dim

/-- A matrix over the small field as source: bounds, then a row and a column at least, else DIM (R88, 46 R330). -/
def State.checkMatM (s : State) (d : DReg) : Except ErrCode Unit := do
  s.checkSrc d (s.rows d * s.cols d)
  check (1 ≤ s.rows d ∧ 1 ≤ s.cols d) .dim

/-- A Goppa polynomial as source (R89). -/
def State.checkGoppa (s : State) (d : DReg) : Except ErrCode Unit := s.checkSrc d (s.len d)

/-- A polynomial array as source: its bounds; its shape is checked later (R91, 47 R350). -/
def State.checkMap (s : State) (d : DReg) : Except ErrCode Unit := s.checkSrc d (s.rows d * s.cols d)

/-- The words of a byte image of `b` bytes (R90). -/
def imageWords (b : Nat) : Nat := (b + 3) / 4

/-- A byte image as source (R90). -/
def State.checkImage (s : State) (d : DReg) : Except ErrCode Unit := s.checkSrc d (imageWords (s.len d))

/-- The words of two destinations, each from its BASE on, intersect (R93). -/
def rangesMeet (a m b n : Nat) : Bool := decide (m ≠ 0) && decide (n ≠ 0) && decide (a < b + n) && decide (b < a + m)

/-- Two destinations with footprints `m` and `n`: different descriptors and disjoint words, else DST_OVERLAP (R93). -/
def State.checkOverlap (s : State) (d e : DReg) (m n : Nat) : Except ErrCode Unit :=
  check (d ≠ e ∧ rangesMeet (s.base d) m (s.base e) n = false) .dstOverlap

/-! ### Binary polynomials, vectors and field elements -/

/-- `ReadPoly(d)`: the polynomial of `LEN` bits; bits at `LEN` and above are not read (R84). -/
def State.poly (s : State) (d : DReg) : Nat := s.readNat (s.base d) (wordsFor (s.len d)) % 2 ^ s.len d

/-- `WritePoly(d, v, L)`: `W(L)` words with the bits at `L` and above 0, and `LEN <- L` (R84). -/
def State.putPoly (s : State) (d : DReg) (v len : Nat) : State :=
  (s.writeWords (s.base d) (wordsOfNat (v % 2 ^ len) (wordsFor len))).setLen d len

/-- `ReadElem(d)`: the element of the context whose stored string is at `d` (43 R234, 20_memory R86). -/
def State.elem (s : State) (E : ExtField) (d : DReg) : Nat := E.ofStored (s.poly d)

/-- `WriteElem(d, x)` (43 R234, 20_memory R86). -/
def State.putElem (s : State) (E : ExtField) (d : DReg) (x : Nat) : State := s.putPoly d (E.toStored x) E.deg

/-! ### Matrices over GF(2) -/

/-- `ReadMat2(d)`: row `i` from word `BASE + i·W(COLS)` on; bits past the last column are ignored (R87). -/
def State.mat2 (s : State) (d : DReg) : List Nat :=
  (List.range (s.rows d)).map (fun i =>
    s.readNat (s.base d + i * wordsFor (s.cols d)) (wordsFor (s.cols d)) % 2 ^ s.cols d)

/-- `WriteMat2(d, M, r, c)`: the rows one after the other, padding bits 0; ROWS and COLS, never LEN (R87). -/
def State.putMat2 (s : State) (d : DReg) (m : List Nat) (r c : Nat) : State :=
  (s.writeWords (s.base d)
    ((List.range r).flatMap (fun i => wordsOfNat (rowAt m i % 2 ^ c) (wordsFor c)))).setShape d r c

/-! ### Matrices and polynomials over the small field -/

/-- The `k` words from `d.BASE` on, as numbers. -/
def State.cells (s : State) (d : DReg) (k : Nat) : List Nat := (s.readWords (s.base d) k).map BitVec.toNat

/-- Every word read is an element of the small field, else ILLEGAL_ELEM (R88, R89, R91). -/
def State.checkElems (s : State) (cells : List Nat) : Except ErrCode Unit :=
  check (cells.all (fun c => decide (c < 2 ^ s.sf.m.toNat)) = true) .illegalElem

/-- The cells of a matrix operand in row-major order (R88). -/
def State.matCells (s : State) (d : DReg) : List Nat := s.cells d (s.rows d * s.cols d)

/-- `ReadMatM(d)` (R88). -/
def State.matM (s : State) (d : DReg) : List (List Nat) :=
  (List.range (s.rows d)).map (fun i =>
    (List.range (s.cols d)).map (fun j => (s.readWord (s.base d + i * s.cols d + j)).toNat))

/-- `WriteMatM(d, M, r, c)`: one word a cell, row-major; ROWS and COLS, never LEN (R88). -/
def State.putMatM (s : State) (d : DReg) (m : List (List Nat)) (r c : Nat) : State :=
  (s.writeWords (s.base d) ((List.range r).flatMap (fun i =>
    (List.range c).map (fun j => BitVec.ofNat 32 (cellAt m i j))))).setShape d r c

/-- The coefficients of a Goppa operand as stored (R89). -/
def State.coeffs (s : State) (d : DReg) : List Nat := s.cells d (s.len d)

/-- `ReadGoppa(d)` in normal form (R89). -/
def State.goppa (s : State) (d : DReg) : List Nat := gpTrim (s.coeffs d)

/-- The words a polynomial takes in normal form: `deg + 1`, and one word for zero (R89). -/
def goppaLen (a : List Nat) : Nat := max a.length 1

/-- The coefficients written for a polynomial in normal form; the zero polynomial is one word 0 (R89). -/
def goppaStored (a : List Nat) : List Nat := if a = [] then [0] else a

/-- `WriteGoppa(d, a)` for `a` in normal form (R89). -/
def State.putGoppa (s : State) (d : DReg) (a : List Nat) : State :=
  (s.writeWords (s.base d) ((goppaStored a).map (BitVec.ofNat 32))).setLen d (goppaLen a)

/-! ### Byte images -/

/-- Four image bytes as one number, least significant first (20_memory R97). -/
def State.imageWord (s : State) (w k : Nat) : Nat :=
  s.imageByte w k + 2 ^ 8 * s.imageByte w (k + 1) + 2 ^ 16 * s.imageByte w (k + 2) + 2 ^ 24 * s.imageByte w (k + 3)

/-- `q` image bytes from byte `k` on as one number, least significant first (46 R333). -/
def State.imageNat (s : State) (w k : Nat) : Nat → Nat
  | 0 => 0
  | q + 1 => s.imageByte w k + 2 ^ 8 * s.imageNat w (k + 1) q

/-- The `q` bytes of a number, least significant first. -/
def bytesOfNat (v : Nat) : Nat → List Byte
  | 0 => []
  | q + 1 => BitVec.ofNat 8 v :: bytesOfNat (v >>> 8) q

/-- `WriteImage(d, bytes, B)`: the bytes in order, zero bytes to the end of the last word, `LEN <- B` (R90). -/
def State.putImage (s : State) (d : DReg) (bytes : List Byte) : State :=
  (s.writeBytes (s.base d)
    (bytes ++ List.replicate (4 * imageWords bytes.length - bytes.length) 0)).setLen d bytes.length

end Sys2Proof.Machine
end

