-- ==== Sys2Proof/WellFormed.lean ====
section
/-! DEFINITION. Which command terms are legal: the operand types carry every field range but the scalar-base rule
(30_encoding R113). -/

namespace Sys2Proof

/-- `k` consecutive scalar registers from `b` exist: `b + k − 1 ≤ 7` (30_encoding R113). -/
def scalarBaseOk (b : SReg) (k : Nat) : Bool := decide (b.val + k ≤ 8)

/-- How many consecutive scalar registers a command reads from its scalar base, with that base (30_encoding R113):
BP.REDT two, BP.REDP four, EF.CFG three. -/
def Instr.scalarBase? : Instr → Option (SReg × Nat)
  | .bpRedt _ _ base => some (base, 2)
  | .bpRedp _ _ base => some (base, 4)
  | .efCfg _ base _ => some (base, 3)
  | .nop
  | .bpAdd .. | .bpMulc .. | .bpMulk .. | .bpSqr .. | .bpDiv .. | .bpRem .. | .bpGcd .. | .bpDeg ..
  | .bpBget .. | .bpBset .. | .bpBclr .. | .bpBxor .. | .bpIrr ..
  | .sfCfg .. | .sfAdd .. | .sfMul .. | .sfSqr .. | .sfExp .. | .sfInv .. | .sfSqrt .. | .sfIsel ..
  | .efAdd .. | .efMul .. | .efSqr .. | .efInv .. | .efSqrt .. | .efTrace .. | .efHtrace .. | .efSolveq ..
  | .efGetp .. | .efRoot .. | .efCob .. | .efConv .. | .efFlush
  | .m2Mul .. | .m2Vmul .. | .m2Mulv .. | .m2Inv .. | .m2Trn .. | .m2Isz .. | .m2Dec .. | .m2Enc ..
  | .m2mInv .. | .m2mRmulm .. | .m2mRmulv .. | .m2mLmulv .. | .m2mLmulm .. | .m2mDec .. | .m2mEnc ..
  | .gpAdd .. | .gpSmul .. | .gpMul .. | .gpDiv .. | .gpMod .. | .gpGcd .. | .gpMmul .. | .gpMinv ..
  | .gpMdiv .. | .gpSqm .. | .gpSqrtm .. | .gpIrr .. | .gpDeg .. | .gpMono .. | .gpAddm .. => none

/-- A well-formed command: its scalar base, where it has one, does not run past S7. -/
def Instr.wellFormed (i : Instr) : Bool :=
  match i.scalarBase? with
  | some (b, k) => scalarBaseOk b k
  | none => true

end Sys2Proof
end

