-- ==== Sys2Proof/Machine/ExtField.lean ====
section
/-! DEFINITION. The extension-field unit (43_ext_field). The element commands evaluate the checks of R234 first. -/

namespace Sys2Proof.Machine

/-- The context holds a field, else FIELD_INVALID (43 R234). -/
def State.checkCtx (s : State) (c : Ctx) : Except ErrCode Unit := check ((s.efc c).valid = true) .fieldInvalid

/-- `WriteElem` with its capacity check (43 R234). -/
def State.storeElem (s : State) (E : ExtField) (d : DReg) (x : Nat) : Except ErrCode State := do
  s.checkCap d (wordsFor E.deg)
  .ok (s.putElem E d x)

/-- KIND from its register value; values above 2 name none (43 R233). -/
def kindOfWord (w : Word) : Option Kind :=
  if w = 0 then some .poly else if w = 1 then some .onb1 else if w = 2 then some .onb2 else none

/-- The `i`-th exponent of the terms of `P`, from the lowest. -/
def exponentAt (P i : Nat) : Word :=
  BitVec.ofNat 32 (((List.range (bitLen P)).filter P.testBit).getD i 0)

/-- The context EF.CFG stores for a polynomial basis: classified by the weight of `P` (43 R233). -/
def polyContext (n id : Word) (P : Nat) : ExtField :=
  let rtype := if weight P = 3 then RType.trinomial else if weight P = 5 then RType.pentanomial else RType.generic
  { valid := true
    kind := .poly
    n := n
    fieldId := id
    rtype := rtype
    k1 := if rtype = .generic then 0 else exponentAt P 1
    k2 := if rtype = .pentanomial then exponentAt P 2 else 0
    k3 := if rtype = .pentanomial then exponentAt P 3 else 0
    poly := P
    indexMap := [] }

/-- The context EF.CFG stores for an optimal normal basis (43 R233). -/
def onbContext (kind : Kind) (n id : Word) : ExtField :=
  { valid := true
    kind := kind
    n := n
    fieldId := id
    rtype := .generic
    k1 := 0
    k2 := 0
    k3 := 0
    poly := onbPoly kind n.toNat
    indexMap := onbIndexMap kind n.toNat }

/-- EF.CFG (43 R233): `n = S[b]`, `kind = S[b+1]`, `id = S[b+2]`; the descriptor is used for kind 0 only. -/
def execEfCfg (poly : DReg) (base : SReg) (ctx : Ctx) (s : State) : Result := finish s do
  check (scalarBaseOk base 3 = true) .illegalCmd
  let n := s.Sb base 0
  let id := s.Sb base 2
  match kindOfWord (s.Sb base 1) with
  | none => .error .illegalParam
  | some .poly => do
    s.checkPoly poly
    check (2 ≤ n.toNat ∧ n.toNat ≤ s.params.nMax.toNat) .illegalField
    check (polyDeg (s.poly poly) = (n.toNat : Int)) .illegalField
    check (irreducible s.params.irrConst (s.poly poly) = true) .illegalField
    .ok (s.setEfc ctx (polyContext n id (s.poly poly)))
  | some kind => do
    check (2 ≤ n.toNat ∧ n.toNat ≤ s.params.nMax.toNat) .illegalField
    check (onbExists kind n.toNat = true) .illegalField
    .ok (s.setEfc ctx (onbContext kind n id))

/-- EF.GETP (43 R244). -/
def execEfGetp (dst : DReg) (ctx : Ctx) (s : State) : Result := finish s do
  s.checkCtx ctx
  s.checkDst dst
  s.checkCap dst (wordsFor ((s.efc ctx).deg + 1))
  .ok (s.putPoly dst (s.efc ctx).poly ((s.efc ctx).deg + 1))

/-- The commands of one element: the checks of R234, a further check, then `f` of the element. -/
def efUnary (dst a : DReg) (ctx : Ctx) (s : State) (pre : ExtField → Nat → Except ErrCode Unit)
    (f : ExtField → Nat → Nat) : Result := finish s do
  let E := s.efc ctx
  s.checkCtx ctx
  s.checkElem E a
  s.checkDst dst
  pre E (s.elem E a)
  s.storeElem E dst (f E (s.elem E a))

/-- The commands of two elements: the checks of R234, then `f` of the elements. -/
def efBinary (dst a b : DReg) (ctx : Ctx) (s : State) (f : ExtField → Nat → Nat → Nat) : Result := finish s do
  let E := s.efc ctx
  s.checkCtx ctx
  s.checkElem E a
  s.checkElem E b
  s.checkDst dst
  s.storeElem E dst (f E (s.elem E a) (s.elem E b))

/-- No further check. -/
def noCheck (_ : ExtField) (_ : Nat) : Except ErrCode Unit := .ok ()

/-- EF.ADD (43 R235): the exclusive or of the coordinates, in both bases. -/
def execEfAdd (dst a b : DReg) (ctx : Ctx) (s : State) : Result := efBinary dst a b ctx s (fun _ x y => x ^^^ y)

/-- EF.MUL (43 R236). -/
def execEfMul (dst a b : DReg) (ctx : Ctx) (s : State) : Result := efBinary dst a b ctx s ExtField.mul

/-- EF.SQR (43 R237). -/
def execEfSqr (dst a : DReg) (ctx : Ctx) (s : State) : Result := efUnary dst a ctx s noCheck ExtField.sqr

/-- EF.INV (43 R238); the algorithm selector never changes the result (30 R114). -/
def execEfInv (dst a : DReg) (_alg : InvAlg) (ctx : Ctx) (s : State) : Result :=
  efUnary dst a ctx s (fun _ x => check (x ≠ 0) .invZero) ExtField.inv

/-- EF.SQRT (43 R239). -/
def execEfSqrt (dst a : DReg) (ctx : Ctx) (s : State) : Result := efUnary dst a ctx s noCheck ExtField.sqrt

/-- EF.TRACE (43 R240). -/
def execEfTrace (dst : SReg) (a : DReg) (ctx : Ctx) (s : State) : Result := finish s do
  let E := s.efc ctx
  s.checkCtx ctx
  s.checkElem E a
  .ok (s.setS dst (if E.trace (s.elem E a) = E.one then 1 else 0))

/-- EF.HTRACE (43 R241): odd degrees only. -/
def execEfHtrace (dst a : DReg) (ctx : Ctx) (s : State) : Result :=
  efUnary dst a ctx s (fun E _ => check (E.deg % 2 = 1) .degreeParity) ExtField.halfTrace

/-- `DrawElem()` in a context (43 R243). -/
def State.drawElem (s : State) (E : ExtField) : Nat × State :=
  let d := s.drawWords (wordsFor E.deg)
  (E.ofStored (d.1 % 2 ^ E.deg), d.2)

/-- One candidate of the quadratic solver: it succeeds when `w ≠ 0` after the rounds (43 R242). -/
def solveCandidate (E : ExtField) (c : Nat) (s : State) : Option Nat × State :=
  let p := s.drawElem E
  let zw := E.solveRounds c p.1 (E.deg - 1)
  (if zw.2 = 0 then none else some zw.1, p.2)

/-- EF.SOLVEQ (43 R242): 0 for `c = 0`, the half-trace for odd `n`, otherwise the randomized search, one candidate a turn. -/
def execEfSolveq (dst a : DReg) (ctx : Ctx) (s : State) : Result :=
  let E := s.efc ctx
  let c := s.elem E a
  afterChecks s (do
      s.checkCtx ctx
      s.checkElem E a
      s.checkDst dst
      check (E.trace c = 0) .noSolution)
    (if c = 0 then finish s (s.storeElem E dst 0)
     else if E.deg % 2 = 1 then finish s (s.storeElem E dst (E.halfTrace c))
     else searchTurn s (solveCandidate E c) (fun t z => t.storeElem E dst z))

end Sys2Proof.Machine
end

