-- ==== Sys2Proof/Machine/BasisConversion.lean ====
section
/-! DEFINITION. The basis-conversion unit (44_basis_conversion): root search, the change-of-basis cache, conversion. -/

namespace Sys2Proof.Machine

/-- One candidate of `RootSearch(A, B)` (44 R271): `DrawElem()` in `B`, and then the spec's `choose`: the environment names an
element of `B`, and the search succeeds with it exactly when it is a root of `P_A` (log entry 6). -/
def rootCandidate (A B : ExtField) (s : State) : Option Nat × State :=
  let c := (s.drawElem B).2.takeAnswer
  let r := c.1 % 2 ^ B.deg
  (if B.isRoot A.poly r = true then some r else none, c.2)

/-- The matrix `M^(−1)` of the reverse entry (44 R272). `M` is invertible for contexts EF.CFG has configured (R270); the empty
matrix otherwise (log entry 16). -/
def cobReverse (n : Nat) (m : List Nat) : List Nat := (matInv n m).getD []

/-- The pair of cache entries a change-of-basis computation appends: forward, then reverse (44 R272). -/
def State.appendCob (s : State) (A B : ExtField) (m : List Nat) : State :=
  { s with cob := s.cob ++
      [{ srcId := A.fieldId, dstId := B.fieldId, n := A.deg, rows := m },
       { srcId := B.fieldId, dstId := A.fieldId, n := A.deg, rows := cobReverse A.deg m }] }

/-- The first cache entry of a pair of identifiers, in append order (10_state R47). -/
def State.findCob (s : State) (src dst : Word) : Option CobEntry :=
  s.cob.find? (fun e => e.srcId == src && e.dstId == dst)

/-- Two free cache entries, else CACHE_FULL (44 R272). -/
def State.checkCache (s : State) : Except ErrCode Unit :=
  check (s.cobUsed + 2 ≤ s.params.cobEntries.toNat) .cacheFull

/-- EF.ROOT (44 R273): a root of the other context's polynomial in context `c`. -/
def execEfRoot (dst : DReg) (ctx : Ctx) (s : State) : Result :=
  let B := s.efc ctx
  let A := s.efc (otherCtx ctx)
  afterChecks s (do
      s.checkCtx ctx
      s.checkCtx (otherCtx ctx)
      s.checkDst dst
      check (B.n = A.n) .fieldMismatch)
    (searchTurn s (rootCandidate A B) (fun t r => t.storeElem B dst r))

/-- EF.COB (44 R274): a new pair of entries, even when entries of the two fields exist. -/
def execEfCob (ctx : Ctx) (s : State) : Result :=
  let A := s.efc ctx
  let B := s.efc (otherCtx ctx)
  afterChecks s (do
      s.checkCtx ctx
      s.checkCtx (otherCtx ctx)
      check (A.n = B.n) .fieldMismatch
      check (A.fieldId ≠ B.fieldId) .fieldMismatch
      s.checkCache)
    (searchTurn s (rootCandidate A B) (fun t r => .ok (t.appendCob A B (cobMatrix A B r))))

/-- `x · M` stored as an element of `B` (44 R270, R275). -/
def State.storeConverted (s : State) (B : ExtField) (dst : DReg) (x : Nat) (m : List Nat) : Except ErrCode State :=
  s.storeElem B dst (vecMat B.deg x m)

/-- EF.CONV where `P_A ≠ P_B`: with the first cache entry of the two fields, or with a matrix computed and cached now
(44 R275). -/
def convByMatrix (A B : ExtField) (dst : DReg) (x : Nat) (s : State) : Result :=
  afterChecks s (do
      check (A.n = B.n) .fieldMismatch
      check (A.fieldId ≠ B.fieldId) .fieldMismatch)
    (match s.findCob A.fieldId B.fieldId with
     | some e => finish s (do
         check (e.n = A.deg) .fieldMismatch
         s.storeConverted B dst x e.rows)
     | none => afterChecks s s.checkCache
         (searchTurn s (rootCandidate A B) (fun t r =>
           (t.appendCob A B (cobMatrix A B r)).storeConverted B dst x (cobMatrix A B r))))

/-- A clone between these contexts is allowed: a parameter where one is a polynomial basis and the other a normal basis
(93 I11), and always between two polynomial or two normal bases (44 R275). -/
abbrev State.mayClone (s : State) (A B : ExtField) : Prop := (A.kind = .poly ↔ B.kind = .poly) ∨ s.params.acrossKinds = .clone

/-- EF.CONV (44 R275): a copy of the stored string where `P_A = P_B` and a clone is allowed, otherwise by the change-of-basis
matrix. -/
def execEfConv (dst a : DReg) (ctx : Ctx) (s : State) : Result :=
  let A := s.efc ctx
  let B := s.efc (otherCtx ctx)
  afterChecks s (do
      s.checkCtx ctx
      s.checkCtx (otherCtx ctx)
      s.checkElem A a
      s.checkDst dst)
    (if A.poly = B.poly then finish s (do
        check (s.mayClone A B) .fieldMismatch
        s.checkCap dst (wordsFor B.deg)
        .ok (s.putPoly dst (s.poly a) B.deg))
     else convByMatrix A B dst (s.elem A a) s)

/-- EF.FLUSH (44 R276). -/
def execEfFlush (s : State) : Result := finish s (.ok { s with cob := [] })

end Sys2Proof.Machine
end

