-- ==== Sys2Proof/Machine/Control.lean ====
section
/-! DEFINITION. The control family (40_control): NOP. -/

namespace Sys2Proof.Machine

/-- NOP (40 R140): nothing is staged. -/
def execNop (s : State) : Result := finish s (.ok s)

end Sys2Proof.Machine
end

