-- ==== Sys2Proof/Machine/BinaryPoly.lean ====
section
/-! DEFINITION. The binary-polynomial unit (41_binary_poly): every command evaluates the checks of R150 in order, then its own. -/

namespace Sys2Proof.Machine

/-- `WritePoly` with its capacity check (41 R150). -/
def State.storePoly (s : State) (d : DReg) (v len : Nat) : Except ErrCode State := do
  s.checkCap d (wordsFor len)
  .ok (s.putPoly d v len)

/-- The result length of quotients, remainders and gcds: `max(deg + 1, 1)` (41 R150). -/
def reducedLen (v : Nat) : Nat := max (bitLen v) 1

/-- The product commands, whatever the method: `A ⊗ B` in `2·max(La, Lb)` bits (41 R152, R153). -/
def bpProduct (dst a b : DReg) (s : State) : Result := finish s do
  s.checkPoly a
  s.checkPoly b
  s.checkDst dst
  s.storePoly dst (clmul (s.poly a) (s.poly b)) (2 * max (s.len a) (s.len b))

/-- The in-place bit commands: `f A i` for an index below LEN, else INDEX (41 R162). -/
def bpBit (f : Nat → Nat → Nat) (poly : DReg) (index : SReg) (s : State) : Result := finish s do
  s.checkPoly poly
  s.checkDst poly
  check ((s.S index).toNat < s.len poly) .index
  s.storePoly poly (f (s.poly poly) (s.S index).toNat) (s.len poly)

/-- BP.ADD (41 R151). -/
def execBpAdd (dst a b : DReg) (s : State) : Result := finish s do
  s.checkPoly a
  s.checkPoly b
  s.checkDst dst
  s.storePoly dst (s.poly a ^^^ s.poly b) (max (s.len a) (s.len b))

/-- BP.MULC (41 R152). -/
def execBpMulc (dst a b : DReg) (s : State) : Result := bpProduct dst a b s

/-- BP.MULK (41 R153): the result, its length and its errors are those of BP.MULC. -/
def execBpMulk (dst a b : DReg) (s : State) : Result := bpProduct dst a b s

/-- BP.SQR (41 R154); the algorithm selector never changes the result (30 R114). -/
def execBpSqr (dst a : DReg) (_alg : SqrAlg) (s : State) : Result := finish s do
  s.checkPoly a
  s.checkDst dst
  s.storePoly dst (spreadBits (s.poly a)) (2 * s.len a)

/-- BP.DIV (41 R155). -/
def execBpDiv (quot a b rem : DReg) (s : State) : Result := finish s do
  s.checkPoly a
  s.checkPoly b
  s.checkDst quot
  s.checkDst rem
  check (s.poly b ≠ 0) .divZero
  let q := polyDiv (s.poly a) (s.poly b)
  let r := polyMod (s.poly a) (s.poly b)
  s.checkCap quot (wordsFor (reducedLen q))
  s.checkCap rem (wordsFor (reducedLen r))
  s.checkOverlap quot rem (wordsFor (reducedLen q)) (wordsFor (reducedLen r))
  .ok ((s.putPoly quot q (reducedLen q)).putPoly rem r (reducedLen r))

/-- BP.REM (41 R156). -/
def execBpRem (dst a b : DReg) (s : State) : Result := finish s do
  s.checkPoly a
  s.checkPoly b
  s.checkDst dst
  check (s.poly b ≠ 0) .divZero
  let r := polyMod (s.poly a) (s.poly b)
  s.storePoly dst r (reducedLen r)

/-- BP.GCD (41 R157). -/
def execBpGcd (dst a b : DReg) (s : State) : Result := finish s do
  s.checkPoly a
  s.checkPoly b
  s.checkDst dst
  check (s.poly a ≠ 0 ∨ s.poly b ≠ 0) .gcdZero
  let g := polyGcd (s.poly a) (s.poly b)
  s.storePoly dst g (reducedLen g)

/-- BP.REDT (41 R158): `n = S[b]`, `k = S[b+1]`. -/
def execBpRedt (dst a : DReg) (base : SReg) (s : State) : Result := finish s do
  check (scalarBaseOk base 2 = true) .illegalCmd
  s.checkPoly a
  s.checkDst dst
  let n := (s.Sb base 0).toNat
  let k := (s.Sb base 1).toNat
  check (1 ≤ k ∧ k < n) .illegalParam
  s.checkCap dst (wordsFor n)
  .ok (s.putPoly dst (polyMod (s.poly a) (trinomial n k)) n)

/-- BP.REDP (41 R160): `n, k1, k2, k3 = S[b], …, S[b+3]`. -/
def execBpRedp (dst a : DReg) (base : SReg) (s : State) : Result := finish s do
  check (scalarBaseOk base 4 = true) .illegalCmd
  s.checkPoly a
  s.checkDst dst
  let n := (s.Sb base 0).toNat
  let k1 := (s.Sb base 1).toNat
  let k2 := (s.Sb base 2).toNat
  let k3 := (s.Sb base 3).toNat
  check (1 ≤ k1 ∧ k1 < k2 ∧ k2 < k3 ∧ k3 < n) .illegalParam
  s.checkCap dst (wordsFor n)
  .ok (s.putPoly dst (polyMod (s.poly a) (pentanomial n k1 k2 k3)) n)

/-- BP.DEG (41 R159). -/
def execBpDeg (dst : SReg) (a : DReg) (s : State) : Result := finish s do
  s.checkPoly a
  .ok (s.setS dst (degreeWord (polyDeg (s.poly a))))

/-- BP.BGET (41 R161): an index at or above LEN reads 0. -/
def execBpBget (dst : SReg) (a : DReg) (index : SReg) (s : State) : Result := finish s do
  s.checkPoly a
  let i := (s.S index).toNat
  .ok (s.setS dst (if i < s.len a ∧ (s.poly a).testBit i = true then 1 else 0))

/-- BP.BSET (41 R162). -/
def execBpBset (poly : DReg) (index : SReg) (s : State) : Result :=
  bpBit (fun v i => v ||| 1 <<< i) poly index s

/-- BP.BCLR (41 R163). -/
def execBpBclr (poly : DReg) (index : SReg) (s : State) : Result :=
  bpBit (fun v i => if v.testBit i then v ^^^ 1 <<< i else v) poly index s

/-- BP.BXOR (41 R164). -/
def execBpBxor (poly : DReg) (index : SReg) (s : State) : Result :=
  bpBit (fun v i => v ^^^ 1 <<< i) poly index s

/-- BP.IRR (41 R165). -/
def execBpIrr (dst : SReg) (a : DReg) (s : State) : Result := finish s do
  s.checkPoly a
  .ok (s.setS dst (if irreducible s.params.irrConst (s.poly a) = true then 1 else 0))

end Sys2Proof.Machine
end

