-- ==== Sys2Proof/Machine/Gf2Matrix.lean ====
section
/-! DEFINITION. The GF(2) matrix unit (45_gf2_matrix): every command evaluates the checks of R300 in order, then its own. -/

namespace Sys2Proof.Machine

/-- `WriteMat2` with its capacity check (45 R300). -/
def State.storeMat2 (s : State) (d : DReg) (m : List Nat) (r c : Nat) : Except ErrCode State := do
  s.checkCap d (r * wordsFor c)
  .ok (s.putMat2 d m r c)

/-- `WriteImage` with its capacity check (45 R308, 46 R334). -/
def State.storeImage (s : State) (d : DReg) (bytes : List Byte) : Except ErrCode State := do
  s.checkCap d (imageWords bytes.length)
  .ok (s.putImage d bytes)

/-- M2.MUL (45 R301). -/
def execM2Mul (dst a b : DReg) (s : State) : Result := finish s do
  s.checkMat2 a
  s.checkMat2 b
  s.checkDst dst
  check (s.cols a = s.rows b) .dim
  s.storeMat2 dst (matMul (s.rows a) (s.cols a) (s.mat2 a) (s.mat2 b)) (s.rows a) (s.cols b)

/-- M2.VMUL (45 R302). -/
def execM2Vmul (dst v m : DReg) (s : State) : Result := finish s do
  s.checkPoly v
  s.checkMat2 m
  s.checkDst dst
  check (s.len v = s.rows m) .dim
  s.storePoly dst (vecMat (s.rows m) (s.poly v) (s.mat2 m)) (s.cols m)

/-- M2.MULV (45 R303). -/
def execM2Mulv (dst m v : DReg) (s : State) : Result := finish s do
  s.checkMat2 m
  s.checkPoly v
  s.checkDst dst
  check (s.len v = s.cols m) .dim
  s.storePoly dst (matVec (s.rows m) (s.cols m) (s.mat2 m) (s.poly v)) (s.rows m)

/-- M2.INV (45 R304). -/
def execM2Inv (dst a : DReg) (s : State) : Result := finish s do
  s.checkMat2 a
  s.checkDst dst
  check (s.rows a = s.cols a) .dim
  match matInv (s.rows a) (s.mat2 a) with
  | none => .error .singular
  | some inv => s.storeMat2 dst inv (s.rows a) (s.rows a)

/-- M2.TRN (45 R305). -/
def execM2Trn (dst a : DReg) (s : State) : Result := finish s do
  s.checkMat2 a
  s.checkDst dst
  s.storeMat2 dst (transpose (s.rows a) (s.cols a) (s.mat2 a)) (s.cols a) (s.rows a)

/-- M2.ISZ (45 R306): padding bits are not read. -/
def execM2Isz (dst : SReg) (a : DReg) (s : State) : Result := finish s do
  s.checkMat2 a
  .ok (s.setS dst (if (s.mat2 a).all (· == 0) = true then 1 else 0))

/-- The bytes of an image row of `c` columns. -/
def rowBytes (c : Nat) : Nat := (c + 7) / 8

/-- The rows of a GF(2) matrix image, padding bits included (45 R307). -/
def State.imageRows (s : State) (w r bpr : Nat) : List Nat :=
  (List.range r).map (fun i => s.imageNat w (8 + i * bpr) bpr)

/-- M2.DEC (45 R307). -/
def execM2Dec (dst img : DReg) (s : State) : Result := finish s do
  s.checkImage img
  s.checkDst dst
  check (8 ≤ s.len img) .malformedEncoding
  let r := s.imageWord (s.base img) 0
  let c := s.imageWord (s.base img) 4
  check (1 ≤ r ∧ r < 2 ^ 31 ∧ 1 ≤ c ∧ c < 2 ^ 31) .malformedEncoding
  check (s.len img = 8 + r * rowBytes c) .malformedEncoding
  check ((s.imageRows (s.base img) r (rowBytes c)).all (fun v => decide (v < 2 ^ c)) = true) .malformedEncoding
  s.storeMat2 dst (s.imageRows (s.base img) r (rowBytes c)) r c

/-- M2.ENC (45 R308). -/
def execM2Enc (img a : DReg) (s : State) : Result := finish s do
  s.checkMat2 a
  s.checkDst img
  let r := s.rows a
  let c := s.cols a
  s.storeImage img (bytesOfNat r 4 ++ bytesOfNat c 4 ++
    (List.range r).flatMap (fun i => bytesOfNat (rowAt (s.mat2 a) i) (rowBytes c)))

end Sys2Proof.Machine
end

