-- ==== Sys2Proof/Machine/SmallField.lean ====
section
/-! DEFINITION. The small-field unit (42_small_field). Every command but SF.CFG evaluates the checks of R202 first. -/

namespace Sys2Proof.Machine

/-- A small field is configured, else FIELD_INVALID (42 R202). -/
def State.checkField (s : State) : Except ErrCode Unit := check (s.sf.valid = true) .fieldInvalid

/-- Scalar register `k` holds an element, else ILLEGAL_ELEM (42 R202). -/
def State.checkScalarElem (s : State) (k : SReg) : Except ErrCode Unit :=
  check (s.sf.isElem (s.S k) = true) .illegalElem

/-- `S[dst] <- v` for a small-field value. -/
def State.setElem (s : State) (dst : SReg) (v : Nat) : State := s.setS dst (BitVec.ofNat 32 v)

/-- SF.CFG (42 R201): degree range (`M_MAX`, 93 I16), degree match, irreducibility. -/
def execSfCfg (m poly : SReg) (s : State) : Result := finish s do
  let d := (s.S m).toNat
  let p := (s.S poly).toNat
  check (2 ≤ d ∧ d ≤ s.params.mMax) .illegalField
  check (polyDeg p = (d : Int)) .illegalField
  check (irreducible s.params.irrConst p = true) .illegalField
  .ok { s with sf := { m := s.S m, poly := s.S poly, valid := true } }

/-- SF.ADD (42 R203). -/
def execSfAdd (dst a b : SReg) (s : State) : Result := finish s do
  s.checkField
  s.checkScalarElem a
  s.checkScalarElem b
  .ok (s.setS dst (s.S a ^^^ s.S b))

/-- SF.MUL (42 R204). -/
def execSfMul (dst a b : SReg) (s : State) : Result := finish s do
  s.checkField
  s.checkScalarElem a
  s.checkScalarElem b
  .ok (s.setElem dst (s.sf.mul (s.S a).toNat (s.S b).toNat))

/-- SF.SQR (42 R205). -/
def execSfSqr (dst a : SReg) (s : State) : Result := finish s do
  s.checkField
  s.checkScalarElem a
  .ok (s.setElem dst (s.sf.mul (s.S a).toNat (s.S a).toNat))

/-- SF.EXP (42 R207): a signed exponent; a negative power of 0 is INV_ZERO. -/
def execSfExp (dst a k : SReg) (s : State) : Result := finish s do
  s.checkField
  s.checkScalarElem a
  let x := (s.S a).toNat
  let e := (s.S k).toInt
  if e = 0 then .ok (s.setElem dst 1)
  else if 0 < e then .ok (s.setElem dst (s.sf.pow x e.toNat))
  else do
    check (x ≠ 0) .invZero
    .ok (s.setElem dst (s.sf.pow (s.sf.inv x) (-e).toNat))

/-- SF.INV (42 R206). -/
def execSfInv (dst a : SReg) (s : State) : Result := finish s do
  s.checkField
  s.checkScalarElem a
  check ((s.S a).toNat ≠ 0) .invZero
  .ok (s.setElem dst (s.sf.inv (s.S a).toNat))

/-- SF.SQRT (42 R208). -/
def execSfSqrt (dst a : SReg) (s : State) : Result := finish s do
  s.checkField
  s.checkScalarElem a
  .ok (s.setElem dst (s.sf.sqrt (s.S a).toNat))

/-- SF.ISEL (42 R209): any word is accepted. -/
def execSfIsel (dst a : SReg) (s : State) : Result := finish s do
  s.checkField
  .ok (s.setS dst (if s.sf.isElem (s.S a) = true then 1 else 0))

end Sys2Proof.Machine
end

