-- ==== Sys2Proof/Machine/Gf2mMatrix.lean ====
section
/-! DEFINITION. The matrix unit over the small field (46_gf2m_matrix). -/

namespace Sys2Proof.Machine

/-- `WriteMatM` with its capacity check (46 R330). -/
def State.storeMatM (s : State) (d : DReg) (m : List (List Nat)) (r c : Nat) : Except ErrCode State := do
  s.checkCap d (r * c)
  .ok (s.putMatM d m r c)

/-- M2M.INV (46 R331). -/
def execM2mInv (dst a : DReg) (s : State) : Result := finish s do
  s.checkField
  s.checkMatM a
  s.checkDst dst
  check (s.rows a = s.cols a) .dim
  s.checkElems (s.matCells a)
  match matInvM s.sf (s.rows a) (s.matM a) with
  | none => .error .singular
  | some inv => s.storeMatM dst inv (s.rows a) (s.rows a)

/-- M2M.RMULM (46 R332): not implemented, whatever the operands hold. -/
def execM2mRmulm (_dst _a _b : DReg) (s : State) : Result := finish s (.error .notImplemented)

/-- M2M.RMULV (46 R332): not implemented, whatever the operands hold. -/
def execM2mRmulv (_dst _a _v : DReg) (s : State) : Result := finish s (.error .notImplemented)

/-- M2M.LMULV (46 R332): not implemented, whatever the operands hold. -/
def execM2mLmulv (_dst _v _a : DReg) (s : State) : Result := finish s (.error .notImplemented)

/-- M2M.LMULM (46 R332): not implemented, whatever the operands hold. -/
def execM2mLmulm (_dst _a _b : DReg) (s : State) : Result := finish s (.error .notImplemented)

/-- The bytes of an image cell: `⌈SF_M / 8⌉` (46 R333). -/
def SmallField.cellBytes (F : SmallField) : Nat := (F.m.toNat + 7) / 8

/-- The cells of a matrix image of `r` rows and `c` columns (46 R333). -/
def State.imageCells (s : State) (w r c cb : Nat) : List (List Nat) :=
  (List.range r).map (fun i => (List.range c).map (fun j => s.imageNat w (4 + (i * c + j) * cb) cb))

/-- M2M.DEC (46 R333). -/
def execM2mDec (dst img : DReg) (s : State) : Result := finish s do
  s.checkField
  s.checkImage img
  s.checkDst dst
  let cb := s.sf.cellBytes
  check (4 ≤ s.len img) .malformedEncoding
  let r := s.imageWord (s.base img) 0
  check (1 ≤ r ∧ r < 2 ^ 31) .malformedEncoding
  check ((s.len img - 4) % (r * cb) = 0 ∧ r * cb ≤ s.len img - 4) .malformedEncoding
  let c := (s.len img - 4) / (r * cb)
  s.checkElems (s.imageCells (s.base img) r c cb).flatten
  s.storeMatM dst (s.imageCells (s.base img) r c cb) r c

/-- M2M.ENC (46 R334). -/
def execM2mEnc (img a : DReg) (s : State) : Result := finish s do
  s.checkField
  s.checkMatM a
  s.checkDst img
  s.checkElems (s.matCells a)
  let r := s.rows a
  let c := s.cols a
  s.storeImage img (bytesOfNat r 4 ++
    (List.range r).flatMap (fun i => (List.range c).flatMap (fun j =>
      bytesOfNat (cellAt (s.matM a) i j) s.sf.cellBytes)))

end Sys2Proof.Machine
end

