-- ==== Sys2Proof/Machine/Goppa.lean ====
section
/-! DEFINITION. The Goppa-polynomial unit (47_goppa): every command evaluates the checks of R350 in order, then its own. -/

namespace Sys2Proof.Machine

/-- `WriteGoppa` with its capacity check (47 R350). -/
def State.storeGoppa (s : State) (d : DReg) (a : List Nat) : Except ErrCode State := do
  s.checkCap d (goppaLen a)
  .ok (s.putGoppa d a)

/-- The checks of R350 for one polynomial source and one destination. -/
def State.checkGp1 (s : State) (dst a : DReg) : Except ErrCode Unit := do
  s.checkField
  s.checkGoppa a
  s.checkDst dst
  s.checkElems (s.coeffs a)

/-- The checks of R350 for two polynomial sources and one destination. -/
def State.checkGp2 (s : State) (dst a b : DReg) : Except ErrCode Unit := do
  s.checkField
  s.checkGoppa a
  s.checkGoppa b
  s.checkDst dst
  s.checkElems (s.coeffs a)
  s.checkElems (s.coeffs b)

/-- The checks of R350 for three polynomial sources and one destination. -/
def State.checkGp3 (s : State) (dst a b g : DReg) : Except ErrCode Unit := do
  s.checkField
  s.checkGoppa a
  s.checkGoppa b
  s.checkGoppa g
  s.checkDst dst
  s.checkElems (s.coeffs a)
  s.checkElems (s.coeffs b)
  s.checkElems (s.coeffs g)

/-- The checks of R350 for one polynomial source and a scalar destination. -/
def State.checkGpS (s : State) (a : DReg) : Except ErrCode Unit := do
  s.checkField
  s.checkGoppa a
  s.checkElems (s.coeffs a)

/-- The modulus checks of 47 R366. -/
def checkModulus (g : List Nat) : Except ErrCode Unit := do
  check (g ≠ []) .divZero
  check (1 ≤ gpDeg g) .illegalParam

/-- GP.ADD (47 R351). -/
def execGpAdd (dst a b : DReg) (s : State) : Result := finish s do
  s.checkGp2 dst a b
  s.storeGoppa dst (gpAdd (s.goppa a) (s.goppa b))

/-- GP.SMUL (47 R352). -/
def execGpSmul (dst a : DReg) (e : SReg) (s : State) : Result := finish s do
  s.checkGp1 dst a
  s.checkScalarElem e
  s.storeGoppa dst (gpScale s.sf (s.S e).toNat (s.goppa a))

/-- GP.MUL (47 R353). -/
def execGpMul (dst a b : DReg) (s : State) : Result := finish s do
  s.checkGp2 dst a b
  s.storeGoppa dst (gpMul s.sf (s.goppa a) (s.goppa b))

/-- GP.DIV (47 R354). -/
def execGpDiv (quot a b rem : DReg) (s : State) : Result := finish s do
  s.checkField
  s.checkGoppa a
  s.checkGoppa b
  s.checkDst quot
  s.checkDst rem
  s.checkElems (s.coeffs a)
  s.checkElems (s.coeffs b)
  check (s.goppa b ≠ []) .divZero
  let q := gpDiv s.sf (s.goppa a) (s.goppa b)
  let r := gpMod s.sf (s.goppa a) (s.goppa b)
  s.checkCap quot (goppaLen q)
  s.checkCap rem (goppaLen r)
  s.checkOverlap quot rem (goppaLen q) (goppaLen r)
  .ok ((s.putGoppa quot q).putGoppa rem r)

/-- GP.MOD (47 R355). -/
def execGpMod (dst a b : DReg) (s : State) : Result := finish s do
  s.checkGp2 dst a b
  check (s.goppa b ≠ []) .divZero
  s.storeGoppa dst (gpMod s.sf (s.goppa a) (s.goppa b))

/-- GP.GCD (47 R356). -/
def execGpGcd (dst a b : DReg) (s : State) : Result := finish s do
  s.checkGp2 dst a b
  check (s.goppa a ≠ [] ∨ s.goppa b ≠ []) .gcdZero
  s.storeGoppa dst (gpGcd s.sf (s.goppa a) (s.goppa b))

/-- GP.MMUL (47 R357). -/
def execGpMmul (dst a b g : DReg) (s : State) : Result := finish s do
  s.checkGp3 dst a b g
  checkModulus (s.goppa g)
  s.storeGoppa dst (gpMod s.sf (gpMul s.sf (s.goppa a) (s.goppa b)) (s.goppa g))

/-- GP.MINV (47 R358). -/
def execGpMinv (dst a g : DReg) (s : State) : Result := finish s do
  s.checkGp2 dst a g
  checkModulus (s.goppa g)
  match gpModInv s.sf (gpMod s.sf (s.goppa a) (s.goppa g)) (s.goppa g) with
  | none => .error .notInvertible
  | some u => s.storeGoppa dst u

/-- GP.MDIV (47 R359). -/
def execGpMdiv (dst a b g : DReg) (s : State) : Result := finish s do
  s.checkGp3 dst a b g
  checkModulus (s.goppa g)
  match gpModInv s.sf (gpMod s.sf (s.goppa b) (s.goppa g)) (s.goppa g) with
  | none => .error .notInvertible
  | some u => s.storeGoppa dst (gpMod s.sf (gpMul s.sf (s.goppa a) u) (s.goppa g))

/-- The checks of the two map commands: bounds, the map's shape, elements, and `deg(A) < t` (47 R350, R360). -/
def State.checkGpMap (s : State) (dst a map : DReg) : Except ErrCode Unit := do
  s.checkField
  s.checkGoppa a
  s.checkMap map
  s.checkDst dst
  check (1 ≤ s.rows map ∧ s.rows map = s.cols map) .dim
  s.checkElems (s.coeffs a)
  s.checkElems (s.matCells map)
  check (gpDeg (s.goppa a) < (s.rows map : Int)) .dim

/-- GP.SQM (47 R360). -/
def execGpSqm (dst a map : DReg) (s : State) : Result := finish s do
  s.checkGpMap dst a map
  s.storeGoppa dst (gpSquareMap s.sf s.params.mapOrient (s.rows map) (s.matCells map) (s.goppa a))

/-- GP.SQRTM (47 R361). -/
def execGpSqrtm (dst a map : DReg) (s : State) : Result := finish s do
  s.checkGpMap dst a map
  s.storeGoppa dst (gpSqrtMap s.sf s.params.mapOrient (s.rows map) (s.matCells map) (s.goppa a))

/-- GP.IRR (47 R362). -/
def execGpIrr (dst : SReg) (a : DReg) (s : State) : Result := finish s do
  s.checkGpS a
  .ok (s.setS dst (if gpIrreducible s.params.irrConst s.sf (s.goppa a) = true then 1 else 0))

/-- GP.DEG (47 R363). -/
def execGpDeg (dst : SReg) (a : DReg) (s : State) : Result := finish s do
  s.checkGpS a
  .ok (s.setS dst (degreeWord (gpDeg (s.goppa a))))

/-- GP.MONO (47 R364). The length of the result is checked before its coefficients are written out (log entry 20). -/
def execGpMono (dst a : DReg) (k : SReg) (s : State) : Result := finish s do
  s.checkGp1 dst a
  let e := (s.S k).toNat
  s.checkCap dst (if s.goppa a = [] then 1 else e + (s.goppa a).length)
  .ok (s.putGoppa dst (gpShift e (s.goppa a)))

/-- GP.ADDM (47 R365). The length of the result is checked before its coefficients are written out (log entry 20). -/
def execGpAddm (dst a : DReg) (k : SReg) (s : State) : Result := finish s do
  s.checkGp1 dst a
  let e := (s.S k).toNat
  s.checkCap dst (if (s.goppa a).length ≤ e then e + 1 else goppaLen (gpAddMono (s.goppa a) e))
  .ok (s.putGoppa dst (gpAddMono (s.goppa a) e))

end Sys2Proof.Machine
end

