-- ==== Sys2Proof/Machine/Dispatch.lean ====
section
/-! DEFINITION. One arm for each command: the direct call of its meaning. -/

namespace Sys2Proof.Machine

def exec (i : Instr) (s : State) : Host.Outcome State Fault Refusal :=
  match i with
  -- NOP
  | .nop => Sys2Proof.Machine.execNop s
  -- BP
  | .bpAdd dst a b => Sys2Proof.Machine.execBpAdd dst a b s
  | .bpMulc dst a b => Sys2Proof.Machine.execBpMulc dst a b s
  | .bpMulk dst a b => Sys2Proof.Machine.execBpMulk dst a b s
  | .bpSqr dst a alg => Sys2Proof.Machine.execBpSqr dst a alg s
  | .bpDiv quot a b rem => Sys2Proof.Machine.execBpDiv quot a b rem s
  | .bpRem dst a b => Sys2Proof.Machine.execBpRem dst a b s
  | .bpGcd dst a b => Sys2Proof.Machine.execBpGcd dst a b s
  | .bpRedt dst a base => Sys2Proof.Machine.execBpRedt dst a base s
  | .bpRedp dst a base => Sys2Proof.Machine.execBpRedp dst a base s
  | .bpDeg dst a => Sys2Proof.Machine.execBpDeg dst a s
  | .bpBget dst a index => Sys2Proof.Machine.execBpBget dst a index s
  | .bpBset poly index => Sys2Proof.Machine.execBpBset poly index s
  | .bpBclr poly index => Sys2Proof.Machine.execBpBclr poly index s
  | .bpBxor poly index => Sys2Proof.Machine.execBpBxor poly index s
  | .bpIrr dst a => Sys2Proof.Machine.execBpIrr dst a s
  -- SF
  | .sfCfg m poly => Sys2Proof.Machine.execSfCfg m poly s
  | .sfAdd dst a b => Sys2Proof.Machine.execSfAdd dst a b s
  | .sfMul dst a b => Sys2Proof.Machine.execSfMul dst a b s
  | .sfSqr dst a => Sys2Proof.Machine.execSfSqr dst a s
  | .sfExp dst a k => Sys2Proof.Machine.execSfExp dst a k s
  | .sfInv dst a => Sys2Proof.Machine.execSfInv dst a s
  | .sfSqrt dst a => Sys2Proof.Machine.execSfSqrt dst a s
  | .sfIsel dst a => Sys2Proof.Machine.execSfIsel dst a s
  -- EF
  | .efCfg poly base ctx => Sys2Proof.Machine.execEfCfg poly base ctx s
  | .efAdd dst a b ctx => Sys2Proof.Machine.execEfAdd dst a b ctx s
  | .efMul dst a b ctx => Sys2Proof.Machine.execEfMul dst a b ctx s
  | .efSqr dst a ctx => Sys2Proof.Machine.execEfSqr dst a ctx s
  | .efInv dst a alg ctx => Sys2Proof.Machine.execEfInv dst a alg ctx s
  | .efSqrt dst a ctx => Sys2Proof.Machine.execEfSqrt dst a ctx s
  | .efTrace dst a ctx => Sys2Proof.Machine.execEfTrace dst a ctx s
  | .efHtrace dst a ctx => Sys2Proof.Machine.execEfHtrace dst a ctx s
  | .efSolveq dst a ctx => Sys2Proof.Machine.execEfSolveq dst a ctx s
  | .efGetp dst ctx => Sys2Proof.Machine.execEfGetp dst ctx s
  | .efRoot dst ctx => Sys2Proof.Machine.execEfRoot dst ctx s
  | .efCob ctx => Sys2Proof.Machine.execEfCob ctx s
  | .efConv dst a ctx => Sys2Proof.Machine.execEfConv dst a ctx s
  | .efFlush => Sys2Proof.Machine.execEfFlush s
  -- M2
  | .m2Mul dst a b => Sys2Proof.Machine.execM2Mul dst a b s
  | .m2Vmul dst v m => Sys2Proof.Machine.execM2Vmul dst v m s
  | .m2Mulv dst m v => Sys2Proof.Machine.execM2Mulv dst m v s
  | .m2Inv dst a => Sys2Proof.Machine.execM2Inv dst a s
  | .m2Trn dst a => Sys2Proof.Machine.execM2Trn dst a s
  | .m2Isz dst a => Sys2Proof.Machine.execM2Isz dst a s
  | .m2Dec dst img => Sys2Proof.Machine.execM2Dec dst img s
  | .m2Enc img a => Sys2Proof.Machine.execM2Enc img a s
  -- M2M
  | .m2mInv dst a => Sys2Proof.Machine.execM2mInv dst a s
  | .m2mRmulm dst a b => Sys2Proof.Machine.execM2mRmulm dst a b s
  | .m2mRmulv dst a v => Sys2Proof.Machine.execM2mRmulv dst a v s
  | .m2mLmulv dst v a => Sys2Proof.Machine.execM2mLmulv dst v a s
  | .m2mLmulm dst a b => Sys2Proof.Machine.execM2mLmulm dst a b s
  | .m2mDec dst img => Sys2Proof.Machine.execM2mDec dst img s
  | .m2mEnc img a => Sys2Proof.Machine.execM2mEnc img a s
  -- GP
  | .gpAdd dst a b => Sys2Proof.Machine.execGpAdd dst a b s
  | .gpSmul dst a e => Sys2Proof.Machine.execGpSmul dst a e s
  | .gpMul dst a b => Sys2Proof.Machine.execGpMul dst a b s
  | .gpDiv quot a b rem => Sys2Proof.Machine.execGpDiv quot a b rem s
  | .gpMod dst a b => Sys2Proof.Machine.execGpMod dst a b s
  | .gpGcd dst a b => Sys2Proof.Machine.execGpGcd dst a b s
  | .gpMmul dst a b g => Sys2Proof.Machine.execGpMmul dst a b g s
  | .gpMinv dst a g => Sys2Proof.Machine.execGpMinv dst a g s
  | .gpMdiv dst a b g => Sys2Proof.Machine.execGpMdiv dst a b g s
  | .gpSqm dst a map => Sys2Proof.Machine.execGpSqm dst a map s
  | .gpSqrtm dst a map => Sys2Proof.Machine.execGpSqrtm dst a map s
  | .gpIrr dst a => Sys2Proof.Machine.execGpIrr dst a s
  | .gpDeg dst a => Sys2Proof.Machine.execGpDeg dst a s
  | .gpMono dst a k => Sys2Proof.Machine.execGpMono dst a k s
  | .gpAddm dst a k => Sys2Proof.Machine.execGpAddm dst a k s

end Sys2Proof.Machine
end

