-- ==== Sys2Proof/Decode.lean ====
section
/-! DEFINITION. From a command word to a command and back: the fields of the one 32-bit format (30_encoding R110), the opcode
map (R117), what makes a word fail decode (R112 to R116), and the encoder (R119). -/

namespace Sys2Proof

/-- Why a command word fails decode. Every one of these completes the command with ILLEGAL_CMD (30_encoding R115). -/
inductive Reject where
  /-- an OPC value the opcode map does not list (R116) -/
  | reservedOpcode
  /-- F5 or bits 31:26 are not 0 (R110, R112) -/
  | reservedBits
  /-- a field the opcode does not use is not 0 (R112) -/
  | unusedField
  /-- an ALG value with no meaning (R114) -/
  | illegalAlg
  /-- a scalar base that runs past S7 (R113) -/
  | scalarBase
deriving DecidableEq, Repr

/-- OPC, bits 7:0 (R110). -/
def opcOf (w : Word) : Nat := (w.extractLsb' 0 8).toNat

/-- F1, bits 10:8 (R110). -/
def f1Of (w : Word) : Fin 8 := (w.extractLsb' 8 3).toFin

/-- F2, bits 13:11 (R110). -/
def f2Of (w : Word) : Fin 8 := (w.extractLsb' 11 3).toFin

/-- F3, bits 16:14 (R110). -/
def f3Of (w : Word) : Fin 8 := (w.extractLsb' 14 3).toFin

/-- F4, bits 19:17 (R110). -/
def f4Of (w : Word) : Fin 8 := (w.extractLsb' 17 3).toFin

/-- F5, bits 22:20 (R110): no command uses it. -/
def f5Of (w : Word) : Fin 8 := (w.extractLsb' 20 3).toFin

/-- ALG, bits 24:23 (R110). -/
def algOf (w : Word) : Fin 4 := (w.extractLsb' 23 2).toFin

/-- CTX, bit 25: 0 selects EFC0, 1 selects EFC1 (R110). -/
def ctxOf (w : Word) : Ctx := if w.getLsbD 25 then .efc1 else .efc0

/-- Bits 31:26, reserved (R110). -/
def rsvOf (w : Word) : Fin 64 := (w.extractLsb' 26 6).toFin

/-- BP.SQR's selector: ALG 0 or 1, anything else has no meaning (R114). -/
def sqrAlgOf (w : Word) : Option SqrAlg :=
  match algOf w with
  | 0 => some .interleave
  | 1 => some .table
  | 2 => none
  | 3 => none

/-- EF.INV's selector: ALG 0, 1 or 2; 3 has no meaning (R114). -/
def invAlgOf (w : Word) : Option InvAlg :=
  match algOf w with
  | 0 => some .almostInverse
  | 1 => some .extendedEuclid
  | 2 => some .repeatedSquaring
  | 3 => none

/-- The ALG field of a squaring selector (R114). -/
def SqrAlg.code : SqrAlg → Fin 4
  | .interleave => 0
  | .table => 1

/-- The ALG field of an inversion selector (R114). -/
def InvAlg.code : InvAlg → Fin 4
  | .almostInverse => 0
  | .extendedEuclid => 1
  | .repeatedSquaring => 2

/-- The CTX bit of a context select (R110). -/
def Ctx.code : Ctx → Fin 2
  | .efc0 => 0
  | .efc1 => 1

/-- Which of the fields F1 to F4, ALG and CTX an opcode uses (the columns of R117). -/
structure Uses where
  f1 : Bool
  f2 : Bool
  f3 : Bool
  f4 : Bool
  alg : Bool
  ctx : Bool
deriving DecidableEq, Repr

/-- Every field the opcode does not use is 0 (R112). -/
def unusedZero (w : Word) (u : Uses) : Bool :=
  (u.f1 || f1Of w == 0) && (u.f2 || f2Of w == 0) && (u.f3 || f3Of w == 0) && (u.f4 || f4Of w == 0)
    && (u.alg || algOf w == 0) && (u.ctx || ctxOf w == .efc0)

/-- The command `i` that word `w` spells, once the reserved bits, the unused fields and the scalar base are legal
(R112, R113). -/
def legal (w : Word) (u : Uses) (i : Instr) : Except Reject Instr :=
  if f5Of w ≠ 0 ∨ rsvOf w ≠ 0 then .error .reservedBits
  else if unusedZero w u = false then .error .unusedField
  else if i.wellFormed = false then .error .scalarBase
  else .ok i

/-- The decoder: total on every 32-bit word (R115), one arm for each row of the opcode map (R117). -/
def decode (w : Word) : Except Reject Instr :=
  match opcOf w with
  | 0x00 => legal w ⟨false, false, false, false, false, false⟩ .nop
  | 0x10 => legal w ⟨true, true, true, false, false, false⟩ (.bpAdd (f1Of w) (f2Of w) (f3Of w))
  | 0x11 => legal w ⟨true, true, true, false, false, false⟩ (.bpMulc (f1Of w) (f2Of w) (f3Of w))
  | 0x12 => legal w ⟨true, true, true, false, false, false⟩ (.bpMulk (f1Of w) (f2Of w) (f3Of w))
  | 0x13 =>
    match sqrAlgOf w with
    | some alg => legal w ⟨true, true, false, false, true, false⟩ (.bpSqr (f1Of w) (f2Of w) alg)
    | none => .error .illegalAlg
  | 0x14 => legal w ⟨true, true, true, true, false, false⟩ (.bpDiv (f1Of w) (f2Of w) (f3Of w) (f4Of w))
  | 0x15 => legal w ⟨true, true, true, false, false, false⟩ (.bpRem (f1Of w) (f2Of w) (f3Of w))
  | 0x16 => legal w ⟨true, true, true, false, false, false⟩ (.bpGcd (f1Of w) (f2Of w) (f3Of w))
  | 0x17 => legal w ⟨true, true, true, false, false, false⟩ (.bpRedt (f1Of w) (f2Of w) (f3Of w))
  | 0x18 => legal w ⟨true, true, true, false, false, false⟩ (.bpRedp (f1Of w) (f2Of w) (f3Of w))
  | 0x19 => legal w ⟨true, true, false, false, false, false⟩ (.bpDeg (f1Of w) (f2Of w))
  | 0x1A => legal w ⟨true, true, true, false, false, false⟩ (.bpBget (f1Of w) (f2Of w) (f3Of w))
  | 0x1B => legal w ⟨true, true, false, false, false, false⟩ (.bpBset (f1Of w) (f2Of w))
  | 0x1C => legal w ⟨true, true, false, false, false, false⟩ (.bpBclr (f1Of w) (f2Of w))
  | 0x1D => legal w ⟨true, true, false, false, false, false⟩ (.bpBxor (f1Of w) (f2Of w))
  | 0x1E => legal w ⟨true, true, false, false, false, false⟩ (.bpIrr (f1Of w) (f2Of w))
  | 0x20 => legal w ⟨false, true, true, false, false, false⟩ (.sfCfg (f2Of w) (f3Of w))
  | 0x21 => legal w ⟨true, true, true, false, false, false⟩ (.sfAdd (f1Of w) (f2Of w) (f3Of w))
  | 0x22 => legal w ⟨true, true, true, false, false, false⟩ (.sfMul (f1Of w) (f2Of w) (f3Of w))
  | 0x23 => legal w ⟨true, true, false, false, false, false⟩ (.sfSqr (f1Of w) (f2Of w))
  | 0x24 => legal w ⟨true, true, true, false, false, false⟩ (.sfExp (f1Of w) (f2Of w) (f3Of w))
  | 0x25 => legal w ⟨true, true, false, false, false, false⟩ (.sfInv (f1Of w) (f2Of w))
  | 0x26 => legal w ⟨true, true, false, false, false, false⟩ (.sfSqrt (f1Of w) (f2Of w))
  | 0x27 => legal w ⟨true, true, false, false, false, false⟩ (.sfIsel (f1Of w) (f2Of w))
  | 0x30 => legal w ⟨false, true, true, false, false, true⟩ (.efCfg (f2Of w) (f3Of w) (ctxOf w))
  | 0x31 => legal w ⟨true, true, true, false, false, true⟩ (.efAdd (f1Of w) (f2Of w) (f3Of w) (ctxOf w))
  | 0x32 => legal w ⟨true, true, true, false, false, true⟩ (.efMul (f1Of w) (f2Of w) (f3Of w) (ctxOf w))
  | 0x33 => legal w ⟨true, true, false, false, false, true⟩ (.efSqr (f1Of w) (f2Of w) (ctxOf w))
  | 0x34 =>
    match invAlgOf w with
    | some alg => legal w ⟨true, true, false, false, true, true⟩ (.efInv (f1Of w) (f2Of w) alg (ctxOf w))
    | none => .error .illegalAlg
  | 0x35 => legal w ⟨true, true, false, false, false, true⟩ (.efSqrt (f1Of w) (f2Of w) (ctxOf w))
  | 0x36 => legal w ⟨true, true, false, false, false, true⟩ (.efTrace (f1Of w) (f2Of w) (ctxOf w))
  | 0x37 => legal w ⟨true, true, false, false, false, true⟩ (.efHtrace (f1Of w) (f2Of w) (ctxOf w))
  | 0x38 => legal w ⟨true, true, false, false, false, true⟩ (.efSolveq (f1Of w) (f2Of w) (ctxOf w))
  | 0x39 => legal w ⟨true, false, false, false, false, true⟩ (.efGetp (f1Of w) (ctxOf w))
  | 0x3A => legal w ⟨true, false, false, false, false, true⟩ (.efRoot (f1Of w) (ctxOf w))
  | 0x3B => legal w ⟨false, false, false, false, false, true⟩ (.efCob (ctxOf w))
  | 0x3C => legal w ⟨true, true, false, false, false, true⟩ (.efConv (f1Of w) (f2Of w) (ctxOf w))
  | 0x3D => legal w ⟨false, false, false, false, false, false⟩ .efFlush
  | 0x40 => legal w ⟨true, true, true, false, false, false⟩ (.m2Mul (f1Of w) (f2Of w) (f3Of w))
  | 0x41 => legal w ⟨true, true, true, false, false, false⟩ (.m2Vmul (f1Of w) (f2Of w) (f3Of w))
  | 0x42 => legal w ⟨true, true, true, false, false, false⟩ (.m2Mulv (f1Of w) (f2Of w) (f3Of w))
  | 0x43 => legal w ⟨true, true, false, false, false, false⟩ (.m2Inv (f1Of w) (f2Of w))
  | 0x44 => legal w ⟨true, true, false, false, false, false⟩ (.m2Trn (f1Of w) (f2Of w))
  | 0x45 => legal w ⟨true, true, false, false, false, false⟩ (.m2Isz (f1Of w) (f2Of w))
  | 0x46 => legal w ⟨true, true, false, false, false, false⟩ (.m2Dec (f1Of w) (f2Of w))
  | 0x47 => legal w ⟨true, true, false, false, false, false⟩ (.m2Enc (f1Of w) (f2Of w))
  | 0x50 => legal w ⟨true, true, false, false, false, false⟩ (.m2mInv (f1Of w) (f2Of w))
  | 0x51 => legal w ⟨true, true, true, false, false, false⟩ (.m2mRmulm (f1Of w) (f2Of w) (f3Of w))
  | 0x52 => legal w ⟨true, true, true, false, false, false⟩ (.m2mRmulv (f1Of w) (f2Of w) (f3Of w))
  | 0x53 => legal w ⟨true, true, true, false, false, false⟩ (.m2mLmulv (f1Of w) (f2Of w) (f3Of w))
  | 0x54 => legal w ⟨true, true, true, false, false, false⟩ (.m2mLmulm (f1Of w) (f2Of w) (f3Of w))
  | 0x55 => legal w ⟨true, true, false, false, false, false⟩ (.m2mDec (f1Of w) (f2Of w))
  | 0x56 => legal w ⟨true, true, false, false, false, false⟩ (.m2mEnc (f1Of w) (f2Of w))
  | 0x60 => legal w ⟨true, true, true, false, false, false⟩ (.gpAdd (f1Of w) (f2Of w) (f3Of w))
  | 0x61 => legal w ⟨true, true, true, false, false, false⟩ (.gpSmul (f1Of w) (f2Of w) (f3Of w))
  | 0x62 => legal w ⟨true, true, true, false, false, false⟩ (.gpMul (f1Of w) (f2Of w) (f3Of w))
  | 0x63 => legal w ⟨true, true, true, true, false, false⟩ (.gpDiv (f1Of w) (f2Of w) (f3Of w) (f4Of w))
  | 0x64 => legal w ⟨true, true, true, false, false, false⟩ (.gpMod (f1Of w) (f2Of w) (f3Of w))
  | 0x65 => legal w ⟨true, true, true, false, false, false⟩ (.gpGcd (f1Of w) (f2Of w) (f3Of w))
  | 0x66 => legal w ⟨true, true, true, true, false, false⟩ (.gpMmul (f1Of w) (f2Of w) (f3Of w) (f4Of w))
  | 0x67 => legal w ⟨true, true, true, false, false, false⟩ (.gpMinv (f1Of w) (f2Of w) (f3Of w))
  | 0x68 => legal w ⟨true, true, true, true, false, false⟩ (.gpMdiv (f1Of w) (f2Of w) (f3Of w) (f4Of w))
  | 0x69 => legal w ⟨true, true, true, false, false, false⟩ (.gpSqm (f1Of w) (f2Of w) (f3Of w))
  | 0x6A => legal w ⟨true, true, true, false, false, false⟩ (.gpSqrtm (f1Of w) (f2Of w) (f3Of w))
  | 0x6B => legal w ⟨true, true, false, false, false, false⟩ (.gpIrr (f1Of w) (f2Of w))
  | 0x6C => legal w ⟨true, true, false, false, false, false⟩ (.gpDeg (f1Of w) (f2Of w))
  | 0x6D => legal w ⟨true, true, true, false, false, false⟩ (.gpMono (f1Of w) (f2Of w) (f3Of w))
  | 0x6E => legal w ⟨true, true, true, false, false, false⟩ (.gpAddm (f1Of w) (f2Of w) (f3Of w))
  | _ => .error .reservedOpcode

/-- A command word from its fields: `OPC | F1<<8 | F2<<11 | F3<<14 | F4<<17 | ALG<<23 | CTX<<25` (R119). -/
def pack (opc : BitVec 8) (f1 f2 f3 f4 : Fin 8) (alg : Fin 4) (ctx : Ctx) : Word :=
  opc.setWidth 32 ||| (BitVec.ofNat 32 f1.val <<< 8) ||| (BitVec.ofNat 32 f2.val <<< 11)
    ||| (BitVec.ofNat 32 f3.val <<< 14) ||| (BitVec.ofNat 32 f4.val <<< 17)
    ||| (BitVec.ofNat 32 alg.val <<< 23) ||| (BitVec.ofNat 32 ctx.code.val <<< 25)

/-- The encoder: the word of a command, its opcode and operand places as the opcode map gives them (R117, R119). -/
def encode : Instr → Word
  | .nop => pack 0x00 0 0 0 0 0 .efc0
  | .bpAdd dst a b => pack 0x10 dst a b 0 0 .efc0
  | .bpMulc dst a b => pack 0x11 dst a b 0 0 .efc0
  | .bpMulk dst a b => pack 0x12 dst a b 0 0 .efc0
  | .bpSqr dst a alg => pack 0x13 dst a 0 0 alg.code .efc0
  | .bpDiv quot a b rem => pack 0x14 quot a b rem 0 .efc0
  | .bpRem dst a b => pack 0x15 dst a b 0 0 .efc0
  | .bpGcd dst a b => pack 0x16 dst a b 0 0 .efc0
  | .bpRedt dst a base => pack 0x17 dst a base 0 0 .efc0
  | .bpRedp dst a base => pack 0x18 dst a base 0 0 .efc0
  | .bpDeg dst a => pack 0x19 dst a 0 0 0 .efc0
  | .bpBget dst a index => pack 0x1A dst a index 0 0 .efc0
  | .bpBset poly index => pack 0x1B poly index 0 0 0 .efc0
  | .bpBclr poly index => pack 0x1C poly index 0 0 0 .efc0
  | .bpBxor poly index => pack 0x1D poly index 0 0 0 .efc0
  | .bpIrr dst a => pack 0x1E dst a 0 0 0 .efc0
  | .sfCfg m poly => pack 0x20 0 m poly 0 0 .efc0
  | .sfAdd dst a b => pack 0x21 dst a b 0 0 .efc0
  | .sfMul dst a b => pack 0x22 dst a b 0 0 .efc0
  | .sfSqr dst a => pack 0x23 dst a 0 0 0 .efc0
  | .sfExp dst a k => pack 0x24 dst a k 0 0 .efc0
  | .sfInv dst a => pack 0x25 dst a 0 0 0 .efc0
  | .sfSqrt dst a => pack 0x26 dst a 0 0 0 .efc0
  | .sfIsel dst a => pack 0x27 dst a 0 0 0 .efc0
  | .efCfg poly base ctx => pack 0x30 0 poly base 0 0 ctx
  | .efAdd dst a b ctx => pack 0x31 dst a b 0 0 ctx
  | .efMul dst a b ctx => pack 0x32 dst a b 0 0 ctx
  | .efSqr dst a ctx => pack 0x33 dst a 0 0 0 ctx
  | .efInv dst a alg ctx => pack 0x34 dst a 0 0 alg.code ctx
  | .efSqrt dst a ctx => pack 0x35 dst a 0 0 0 ctx
  | .efTrace dst a ctx => pack 0x36 dst a 0 0 0 ctx
  | .efHtrace dst a ctx => pack 0x37 dst a 0 0 0 ctx
  | .efSolveq dst a ctx => pack 0x38 dst a 0 0 0 ctx
  | .efGetp dst ctx => pack 0x39 dst 0 0 0 0 ctx
  | .efRoot dst ctx => pack 0x3A dst 0 0 0 0 ctx
  | .efCob ctx => pack 0x3B 0 0 0 0 0 ctx
  | .efConv dst a ctx => pack 0x3C dst a 0 0 0 ctx
  | .efFlush => pack 0x3D 0 0 0 0 0 .efc0
  | .m2Mul dst a b => pack 0x40 dst a b 0 0 .efc0
  | .m2Vmul dst v m => pack 0x41 dst v m 0 0 .efc0
  | .m2Mulv dst m v => pack 0x42 dst m v 0 0 .efc0
  | .m2Inv dst a => pack 0x43 dst a 0 0 0 .efc0
  | .m2Trn dst a => pack 0x44 dst a 0 0 0 .efc0
  | .m2Isz dst a => pack 0x45 dst a 0 0 0 .efc0
  | .m2Dec dst img => pack 0x46 dst img 0 0 0 .efc0
  | .m2Enc img a => pack 0x47 img a 0 0 0 .efc0
  | .m2mInv dst a => pack 0x50 dst a 0 0 0 .efc0
  | .m2mRmulm dst a b => pack 0x51 dst a b 0 0 .efc0
  | .m2mRmulv dst a v => pack 0x52 dst a v 0 0 .efc0
  | .m2mLmulv dst v a => pack 0x53 dst v a 0 0 .efc0
  | .m2mLmulm dst a b => pack 0x54 dst a b 0 0 .efc0
  | .m2mDec dst img => pack 0x55 dst img 0 0 0 .efc0
  | .m2mEnc img a => pack 0x56 img a 0 0 0 .efc0
  | .gpAdd dst a b => pack 0x60 dst a b 0 0 .efc0
  | .gpSmul dst a e => pack 0x61 dst a e 0 0 .efc0
  | .gpMul dst a b => pack 0x62 dst a b 0 0 .efc0
  | .gpDiv quot a b rem => pack 0x63 quot a b rem 0 .efc0
  | .gpMod dst a b => pack 0x64 dst a b 0 0 .efc0
  | .gpGcd dst a b => pack 0x65 dst a b 0 0 .efc0
  | .gpMmul dst a b g => pack 0x66 dst a b g 0 .efc0
  | .gpMinv dst a g => pack 0x67 dst a g 0 0 .efc0
  | .gpMdiv dst a b g => pack 0x68 dst a b g 0 .efc0
  | .gpSqm dst a map => pack 0x69 dst a map 0 0 .efc0
  | .gpSqrtm dst a map => pack 0x6A dst a map 0 0 .efc0
  | .gpIrr dst a => pack 0x6B dst a 0 0 0 .efc0
  | .gpDeg dst a => pack 0x6C dst a 0 0 0 .efc0
  | .gpMono dst a k => pack 0x6D dst a k 0 0 .efc0
  | .gpAddm dst a k => pack 0x6E dst a k 0 0 .efc0

/-- What the decoder reads from an instruction of `nbits` bits, numbered as the opcode table numbers them. A command is one
32-bit word, so the bits above `nbits` are 0. -/
def decodeTableWord (nbits w : Nat) : Option Instr := (decode (BitVec.ofNat 32 (w % 2 ^ nbits))).toOption

end Sys2Proof
end

