-- ==== Sys2Proof/Machine/HostPort.lean ====
section
/-! DEFINITION. The host port: the register map (10_state section 6), the OM window (20_memory R82), busy-blocking (R96), access
width (R95), and the reset event (70 R440). -/

namespace Sys2Proof.Machine

/-- ID (10_state R31). -/
def idWord : Word := 0x49430011

/-- A flag as a word: bit 0, every other bit 0. -/
def flagWord (b : Bool) : Word := if b then 1 else 0

/-- KIND as it reads (10_state R45). -/
def Kind.word : Kind → Word
  | .poly => 0
  | .onb1 => 1
  | .onb2 => 2

/-- RTYPE as it reads (10_state R45). -/
def RType.word : RType → Word
  | .generic => 0
  | .trinomial => 1
  | .pentanomial => 2

/-- What a byte offset of the register space or the OM window names (10_state section 6, 20_memory R82). -/
inductive Loc where
  | id
  | cmd
  | status
  | ie
  | errcmd
  | cmdseq
  | itercap
  | itercnt
  | sfM
  | sfPoly
  | sfValid
  | cobUsed
  | cfgOmWords
  | cfgNMax
  | cfgCobEntries
  | scalar (k : SReg)
  | descBase (d : DReg)
  | descLen (d : DReg)
  | descRows (d : DReg)
  | descCols (d : DReg)
  | descCap (d : DReg)
  | efValid (c : Ctx)
  | efKind (c : Ctx)
  | efN (c : Ctx)
  | efFieldId (c : Ctx)
  | efRType (c : Ctx)
  | efK1 (c : Ctx)
  | efK2 (c : Ctx)
  | efK3 (c : Ctx)
  | om (w : Nat)
  | reserved
deriving DecidableEq, Repr

/-- The control and status registers, offsets 0x000 to 0x03C (10_state section 6). -/
def controlLoc (off : Nat) : Loc :=
  match off with
  | 0x000 => .id
  | 0x004 => .cmd
  | 0x008 => .status
  | 0x00C => .ie
  | 0x010 => .errcmd
  | 0x014 => .cmdseq
  | 0x018 => .itercap
  | 0x01C => .itercnt
  | 0x020 => .sfM
  | 0x024 => .sfPoly
  | 0x028 => .sfValid
  | 0x02C => .cobUsed
  | 0x030 => .cfgOmWords
  | 0x034 => .cfgNMax
  | 0x038 => .cfgCobEntries
  | _ => .reserved

/-- The fields of a descriptor, by offset within it (10_state R41, R42). -/
def descLoc (d : DReg) (off : Nat) : Loc :=
  match off with
  | 0x00 => .descBase d
  | 0x04 => .descLen d
  | 0x08 => .descRows d
  | 0x0C => .descCols d
  | 0x10 => .descCap d
  | _ => .reserved

/-- The registers of an extension-field context, by offset within it (10_state R45). -/
def efcLoc (c : Ctx) (off : Nat) : Loc :=
  match off with
  | 0x00 => .efValid c
  | 0x04 => .efKind c
  | 0x08 => .efN c
  | 0x0C => .efFieldId c
  | 0x10 => .efRType c
  | 0x14 => .efK1 c
  | 0x18 => .efK2 c
  | 0x1C => .efK3 c
  | _ => .reserved

/-- The location at an aligned byte offset, for an operand memory of `omWords` words (10_state section 6, 20_memory R82). -/
def locate (omWords off : Nat) : Loc :=
  if off < 0x040 then controlLoc off
  else if off < 0x060 then .scalar (Fin.ofNat 8 ((off - 0x040) / 4))
  else if off < 0x100 then .reserved
  else if off < 0x200 then descLoc (Fin.ofNat 8 ((off - 0x100) / 0x20)) ((off - 0x100) % 0x20)
  else if off < 0x220 then efcLoc .efc0 (off - 0x200)
  else if off < 0x240 then efcLoc .efc1 (off - 0x220)
  else if off < 0x100000 then .reserved
  else if off < 0x100000 + 4 * omWords then .om ((off - 0x100000) / 4)
  else .reserved

/-- What a location reads as (10_state rules R31 to R45, 20_memory R82; reserved offsets read 0, R52). -/
def State.readLoc (s : State) : Loc → Word
  | .id => idWord
  | .cmd => s.cmd
  | .status => s.statusWord
  | .ie => s.ie.word
  | .errcmd => s.errcmd
  | .cmdseq => s.cmdseq
  | .itercap => s.itercap
  | .itercnt => s.itercnt
  | .sfM => s.sf.m
  | .sfPoly => s.sf.poly
  | .sfValid => flagWord s.sf.valid
  | .cobUsed => BitVec.ofNat 32 s.cobUsed
  | .cfgOmWords => s.params.omWords
  | .cfgNMax => s.params.nMax
  | .cfgCobEntries => s.params.cobEntries
  | .scalar k => s.S k
  | .descBase d => (s.D d).base
  | .descLen d => (s.D d).len
  | .descRows d => (s.D d).rows
  | .descCols d => (s.D d).cols
  | .descCap d => (s.D d).cap
  | .efValid c => flagWord (s.efc c).valid
  | .efKind c => (s.efc c).kind.word
  | .efN c => (s.efc c).n
  | .efFieldId c => (s.efc c).fieldId
  | .efRType c => (s.efc c).rtype.word
  | .efK1 c => (s.efc c).k1
  | .efK2 c => (s.efc c).k2
  | .efK3 c => (s.efc c).k3
  | .om w => s.readWord w
  | .reserved => 0

/-- The effect of a host write while nothing blocks it: a CMD write issues a command, a STATUS write clears W1C bits, RO and
reserved locations ignore it (20_memory R98). -/
def State.writeLoc (s : State) (l : Loc) (v : Word) : State :=
  match l with
  | .cmd => s.issue v
  | .status => s.clearStatus v
  | .ie => { s with ie := IntEnable.ofWord v }
  | .itercap => { s with itercap := v }
  | .scalar k => s.setS k v
  | .descBase d => s.setD d { s.D d with base := v }
  | .descLen d => s.setD d { s.D d with len := v }
  | .descRows d => s.setD d { s.D d with rows := v }
  | .descCols d => s.setD d { s.D d with cols := v }
  | .descCap d => s.setD d { s.D d with cap := v }
  | .om w => s.writeWords w [v]
  | .id | .errcmd | .cmdseq | .itercnt | .sfM | .sfPoly | .sfValid | .cobUsed | .cfgOmWords | .cfgNMax | .cfgCobEntries => s
  | .efValid _ | .efKind _ | .efN _ | .efFieldId _ | .efRType _ | .efK1 _ | .efK2 _ | .efK3 _ | .reserved => s

/-- The locations a running command blocks for reads: S0 to S7, the descriptor fields and the OM window (20_memory R96). -/
def Loc.readBlocked : Loc → Bool
  | .scalar _ | .descBase _ | .descLen _ | .descRows _ | .descCols _ | .descCap _ | .om _ => true
  | .id | .cmd | .status | .ie | .errcmd | .cmdseq | .itercap | .itercnt => false
  | .sfM | .sfPoly | .sfValid | .cobUsed | .cfgOmWords | .cfgNMax | .cfgCobEntries => false
  | .efValid _ | .efKind _ | .efN _ | .efFieldId _ | .efRType _ | .efK1 _ | .efK2 _ | .efK3 _ | .reserved => false

/-- The locations a running command blocks for writes: those of reads and ITERCAP (20_memory R96). -/
def Loc.writeBlocked (l : Loc) : Bool := l.readBlocked || l == .itercap

/-- The sticky BUSYACC set (20_memory R96). -/
def State.setBusyacc (s : State) : State := { s with status := { s.status with busyacc := true } }

/-- The host port's answer to an access. -/
def State.respond (s : State) (r : Response) : State := { s with env := { s.env with response := r } }

/-- A host read at a byte offset (20_memory R95, R96, R98). -/
def State.hostRead (s : State) (off bytes : Nat) : State :=
  let l := locate s.params.omWords.toNat off
  if bytes ≠ 4 ∨ off % 4 ≠ 0 then s.respond .busError
  else if s.phase = .busy ∧ l.readBlocked = true then s.setBusyacc.respond (.data 0)
  else s.respond (.data (s.readLoc l))

/-- A host write at a byte offset (20_memory R95, R96, R98). -/
def State.hostWrite (s : State) (off bytes : Nat) (v : Word) : State :=
  let l := locate s.params.omWords.toNat off
  if bytes ≠ 4 ∨ off % 4 ≠ 0 then s.respond .busError
  else if s.phase = .busy ∧ l.writeBlocked = true then s.setBusyacc.respond .written
  else (s.writeLoc l v).respond .written

/-- A host access (00_scope R3a). An address below BLOCK_BASE does not address the block (log entry 12). -/
def hostAccess (a : Access) (s : State) : Result :=
  match a with
  | .read addr bytes =>
    if addr < s.params.blockBase then .fault (.outsideBlock addr)
    else .next (s.hostRead (addr - s.params.blockBase) bytes)
  | .write addr bytes v =>
    if addr < s.params.blockBase then .fault (.outsideBlock addr)
    else .next (s.hostWrite (addr - s.params.blockBase) bytes v)

/-- The reset event (70 R440): every piece of state at its reset value, a running command abandoned, OM unspecified again. The
instance's parameters and the outside world go on (log entry 13). -/
def State.resetEvent (s : State) : State :=
  { State.reset with
    params := s.params
    env := { s.env with response := .none, resets := s.env.resets + 1 } }

end Sys2Proof.Machine
end

