-- ==== Sys2Proof/Machine/Step.lean ====
section
/-! DEFINITION. One step of the machine: the next pending input, or the engine's turn (log entry 1). -/

namespace Sys2Proof.Machine

/-- The engine's turn: IDLE waits; BUSY runs the accepted command, or completes it with ILLEGAL_CMD where its word fails decode
(70 R450, R451; 30_encoding R115). -/
def engineTurn (s : State) : Host.Outcome State Fault Refusal :=
  match s.phase with
  | .idle => .next s
  | .busy =>
    match decode s.cmd with
    | .ok i => exec i s
    | .error _ => .next (s.latch .illegalCmd 0)

/-- The state with its next pending inputs replaced. -/
def State.withInputs (s : State) (l : List Input) : State := { s with env := { s.env with inputs := l } }

/-- One step: the oldest pending input, or the engine's turn where none is pending. -/
def step (s : State) : Host.Outcome State Fault Refusal :=
  match s.env.inputs with
  | [] => engineTurn s
  | .engine :: rest => engineTurn (s.withInputs rest)
  | .host a :: rest => hostAccess a (s.withInputs rest)
  | .reset :: rest => .next (s.withInputs rest).resetEvent

/-- `s` with the command word `w` accepted and the engine's turn next, so that `step` runs exactly that command (log entry 2). A
pending error would have had the issue rejected (70 R451), so it is cleared. -/
def State.withFetchWord (s : State) (nbits w : Nat) : State :=
  let t := ({ s with status := { s.status with err := false, errcode := 0 } }).accept (BitVec.ofNat 32 (w % 2 ^ nbits))
  t.withInputs (.engine :: t.env.inputs)

end Sys2Proof.Machine
end

