-- ==== Sys2Proof/Machine/HostProgram.lean ====
section
/-! DEFINITION. The host pseudo-instructions (30_encoding R120): those whose accesses are known beforehand as lists of inputs, and
`WAIT` and `<command>` alone, whose accesses depend on what STATUS reads, as runs of the machine. -/

namespace Sys2Proof.Machine

/-! ### Accesses -/

/-- A 32-bit write at a byte offset of the block. -/
def hostWriteAt (p : Params) (off : Nat) (v : Word) : Input := .host (.write (p.blockBase + off) 4 v)

/-- A 32-bit read at a byte offset of the block. -/
def hostReadAt (p : Params) (off : Nat) : Input := .host (.read (p.blockBase + off) 4)

/-! ### Pseudo-instructions of accesses known beforehand -/

/-- `SETS sK, v`. -/
def pseudoSets (p : Params) (k : SReg) (v : Word) : List Input := [hostWriteAt p (0x040 + 4 * k.val) v]

/-- `SETD dK, base=B, len=L, rows=R, cols=C, cap=P`. -/
def pseudoSetd (p : Params) (k : DReg) (d : Desc) : List Input :=
  [hostWriteAt p (0x100 + 0x20 * k.val + 0x00) d.base, hostWriteAt p (0x100 + 0x20 * k.val + 0x04) d.len,
   hostWriteAt p (0x100 + 0x20 * k.val + 0x08) d.rows, hostWriteAt p (0x100 + 0x20 * k.val + 0x0C) d.cols,
   hostWriteAt p (0x100 + 0x20 * k.val + 0x10) d.cap]

/-- `WROM w, v0, v1, …`. -/
def pseudoWrom (p : Params) : Nat → List Word → List Input
  | _, [] => []
  | w, v :: vs => hostWriteAt p (0x100000 + 4 * w) v :: pseudoWrom p (w + 1) vs

/-- `ISSUE <command>`. -/
def pseudoIssue (p : Params) (i : Instr) : List Input := [hostWriteAt p 0x004 (encode i)]

/-- `CLRERR`. -/
def pseudoClrerr (p : Params) : List Input := [hostWriteAt p 0x008 0x0000001E]

/-! ### Pseudo-instructions that look at what they read -/

/-- The inputs happen one after the other, before those already pending, one step each. -/
def runInputs : List Input → State → Result
  | [], s => .next s
  | i :: rest, s =>
    match step (s.withInputs (i :: s.env.inputs)) with
    | .next t => runInputs rest t
    | .fault f => .fault f
    | .refused r => .refused r

/-- The state after a run that went on. -/
def nextOf : Result → Option State
  | .next t => some t
  | .fault _ | .refused _ => none

/-- The word the host port answered last has bit 0 clear: a STATUS read showed BUSY = 0. -/
def State.sawNotBusy (s : State) : Bool :=
  match s.env.response with
  | .data v => !v.getLsbD 0
  | .none | .written | .busError => false

/-- `WAIT`: STATUS is read until bit 0 (BUSY) is 0. Entry `k` of the list says how many turns the engine has before read `k` (any
number, 70 R455); the answer is the state after the first read that shows BUSY = 0, or nothing where no read of the list does and
the `WAIT` goes on (log entry 23). -/
def pseudoWait : List Nat → State → Option State
  | [], _ => none
  | n :: turns, s =>
    (nextOf (runInputs (List.replicate n .engine) s)).bind fun u =>
      (nextOf (runInputs [hostReadAt u.params 0x008] u)).bind fun t =>
        if t.sawNotBusy = true then some t else pseudoWait turns t

/-- `<command>` alone: `ISSUE <command>` followed by `WAIT`. -/
def pseudoCommand (i : Instr) (turns : List Nat) (s : State) : Option State :=
  (nextOf (runInputs (pseudoIssue s.params i) s)).bind (pseudoWait turns)

end Sys2Proof.Machine
end

