-- ==== Sys2Proof/Safety.lean ====
section
/-! DEFINITION. The words the statements are written in: what a safe step is, the invariant of the machine, the operands a command
needs, what a completed command may have changed, and its results as software reads them back. -/

namespace Sys2Proof.Machine

/-! ### Safe steps -/

/-- The next step goes on: it ends in no fault and no refusal. -/
def State.SafeStep (s : State) : Prop := ∃ t, step s = .next t

/-- The host address of an access. -/
def Access.addr : Access → Nat
  | .read addr _ => addr
  | .write addr _ _ => addr

/-- The next input is a host access that does not address the block (log entry 12). -/
def State.NextOutside (s : State) : Prop :=
  ∃ a rest, s.env.inputs = .host a :: rest ∧ a.addr < s.params.blockBase

/-! ### Fields -/

/-- The small-field context of R43 and 42 R200: unconfigured and all zero, or a polynomial of degree `m`, `2 ≤ m ≤ 31`, that passes
the irreducibility test of SF.CFG. -/
def SmallField.ok (F : SmallField) : Bool :=
  if F.valid then
    decide (2 ≤ F.m.toNat) && decide (F.m.toNat ≤ 31) && bitLen F.poly.toNat == F.m.toNat + 1
      && irreducible true F.poly.toNat
  else F.m == 0 && F.poly == 0

/-- A context EF.CFG has configured (10_state R45, R46; 43 R230 to R233). -/
def ExtField.configured (p : Params) (E : ExtField) : Bool :=
  decide (2 ≤ E.deg) && decide (E.deg ≤ p.nMax.toNat) && bitLen E.poly == E.deg + 1
    && (match E.kind with
        | .poly => irreducible true E.poly && E.indexMap == []
            && (E.rtype == .trinomial) == (weight E.poly == 3) && (E.rtype == .pentanomial) == (weight E.poly == 5)
        | .onb1 | .onb2 => onbExists E.kind E.deg && E.indexMap == onbIndexMap E.kind E.deg
            && E.poly == onbPoly E.kind E.deg && E.rtype == .generic && E.k1 == 0 && E.k2 == 0 && E.k3 == 0)

/-- A context: configured, or holding no field. -/
def ExtField.ok (p : Params) (E : ExtField) : Bool :=
  if E.valid then E.configured p else E == ExtField.none

/-- Cache entries stand in pairs, forward then reverse (44 R272). -/
def cobPaired : List CobEntry → Bool
  | [] => true
  | [_] => false
  | a :: b :: l => a.srcId == b.dstId && a.dstId == b.srcId && a.n == b.n && cobPaired l

/-! ### The invariant -/

/-- What holds of every state a run reaches. -/
structure State.Inv (s : State) : Prop where
  /-- the parameters meet 00_scope R6 -/
  params : s.params.legal = true
  /-- operand memory keeps its canonical form -/
  omForm : s.om.wf = true
  /-- nothing is stored past the last word of OM (20_memory R80) -/
  omRange : ∀ c ∈ s.om, c.1 < 4 * s.params.omWords.toNat
  /-- while BUSY no error is pending and DONE is 0 (70 R451) -/
  busy : s.phase = .busy → s.status.err = false ∧ s.status.done = false
  /-- while IDLE no search is in progress -/
  idle : s.phase = .idle → s.candidates = 0
  /-- a search has drawn no more than ITERCAP candidates (10_state R38) -/
  limit : s.itercap ≠ 0 → s.candidates ≤ s.itercap.toNat
  /-- ERRCODE is 0 while ERR is 0 (10_state R33) -/
  noError : s.status.err = false → s.status.errcode = 0
  /-- ERRCODE is one of the 22 codes while ERR is 1 (60 R400) -/
  errorCode : s.status.err = true → 1 ≤ s.status.errcode.toNat ∧ s.status.errcode.toNat ≤ 0x16
  /-- the small-field context (10_state R43) -/
  smallField : s.sf.ok = true
  /-- the extension-field contexts (10_state R45, R46) -/
  contexts : ∀ c, (s.efc c).ok s.params = true
  /-- the cache holds whole pairs, at most COB_ENTRIES entries (10_state R44, R47) -/
  cache : cobPaired s.cob = true ∧ s.cobUsed ≤ s.params.cobEntries.toNat
  /-- a cached matrix has no bit past its last column (44 R270) -/
  cacheRows : ∀ e ∈ s.cob, ∀ r ∈ e.rows, r < 2 ^ e.n

/-! ### Operands -/

/-- A polynomial or vector source passes its checks (20_memory R83, R84). -/
abbrev State.PolySource (s : State) (d : DReg) : Prop := s.inOm d ∧ wordsFor (s.len d) ≤ s.cap d

/-- A GF(2) matrix source lies in OM and fits its CAP (20_memory R83, R87). -/
abbrev State.Mat2Source (s : State) (d : DReg) : Prop := s.inOm d ∧ s.rows d * wordsFor (s.cols d) ≤ s.cap d

/-- A matrix over the small field, or a polynomial array, lies in OM and fits its CAP (20_memory R83, R88, R91). -/
abbrev State.MatMSource (s : State) (d : DReg) : Prop := s.inOm d ∧ s.rows d * s.cols d ≤ s.cap d

/-- A matrix source has a row and a column at least (20_memory R87, R88). -/
abbrev State.HasCells (s : State) (d : DReg) : Prop := 1 ≤ s.rows d ∧ 1 ≤ s.cols d

/-- A Goppa polynomial source lies in OM and fits its CAP (20_memory R83, R89). -/
abbrev State.GoppaSource (s : State) (d : DReg) : Prop := s.inOm d ∧ s.len d ≤ s.cap d

/-- A byte-image source passes its checks (20_memory R83, R90). -/
abbrev State.ImageSource (s : State) (d : DReg) : Prop := s.inOm d ∧ imageWords (s.len d) ≤ s.cap d

/-- Every number of a list is an element of the small field. -/
abbrev State.Elements (s : State) (l : List Nat) : Prop := ∀ c ∈ l, c < 2 ^ s.sf.m.toNat

/-- Scalar register `k` holds an element of the small field (42 R202). -/
abbrev State.ScalarElem (s : State) (k : SReg) : Prop := (s.S k).toNat < 2 ^ s.sf.m.toNat

/-- The two results of a division do not overlap (20_memory R93). -/
abbrev State.Apart (s : State) (d e : DReg) (m n : Nat) : Prop := d ≠ e ∧ rangesMeet (s.base d) m (s.base e) n = false

/-- A running search has drawn ITERCAP candidates (43 R242, 44 R271). -/
abbrev State.LimitReached (s : State) : Prop := s.itercap ≠ 0 ∧ s.candidates = s.itercap.toNat

/-! ### Mathematics -/

/-- The coefficient of `x^k` in the product of two polynomials over GF(2): the parity of the number of pairs of terms
(00_scope R9). -/
def productBit (a b k : Nat) : Bool :=
  ((List.range (k + 1)).filter (fun i => a.testBit i && b.testBit (k - i))).length % 2 == 1

/-- `d` divides `a` over GF(2). -/
def PolyDvd (d a : Nat) : Prop := ∃ q, clmul q d = a

/-- `p` has a degree of at least 1 and is no product of two polynomials other than 1 and itself (42 R200). -/
abbrev PolyIrreducible (p : Nat) : Prop := 2 ≤ p ∧ ∀ a, a < p → ∀ b, b < p → clmul a b ≠ p

/-- Entry `(i, j)` of a GF(2) matrix. -/
def entry (m : List Nat) (i j : Nat) : Bool := (rowAt m i).testBit j

/-- The exclusive or of `f 0, …, f (n−1)` (45 R301 to R303). -/
def xorBits (n : Nat) (f : Nat → Bool) : Bool := ((List.range n).filter f).length % 2 == 1

/-- `n` rows, each of `c` bits at most. -/
def Mat2Shape (m : List Nat) (r c : Nat) : Prop := m.length = r ∧ ∀ i, rowAt m i < 2 ^ c

/-- `x · x · … · x`, `e` factors. -/
def SmallField.timesPow (F : SmallField) (x e : Nat) : Nat := repeatTimes (F.mul x) e 1

/-- Coordinate `h` of `β^(2^i) · β^(2^j)` in a normal basis (43 R232). Type I: `k_h ≡ k_i + k_j`, and every coordinate where that
sum is 0 modulo `p`. Type II: the sum of the unit vectors of `k_h ≡ ±(k_i + k_j)` and of `k_h ≡ ±(k_i − k_j)`. -/
def ExtField.basisProduct (E : ExtField) (i j h : Nat) : Bool :=
  let p := onbPrime E.kind E.deg
  let k := onbIndex E.kind E.deg
  match E.kind with
  | .poly => false
  | .onb1 => (k i + k j) % p == 0 || k h % p == (k i + k j) % p
  | .onb2 =>
    (k h % p == (k i + k j) % p || (k h + k i + k j) % p == 0) != ((k h + k j) % p == k i % p || (k h + k i) % p == k j % p)

/-- Coefficient `k` of the product of two coefficient lists over the small field (47 R353). -/
def gpProductCoeff (F : SmallField) (a b : List Nat) (k : Nat) : Nat :=
  xorSum (k + 1) (fun i => F.mul (a.getD i 0) (b.getD (k - i) 0))

/-- A coefficient list in normal form (20_memory R89). -/
def GpNormal (a : List Nat) : Prop := gpTrim a = a

/-- A polynomial over the small field: in normal form, every coefficient an element (47 R350, 20_memory R89). -/
def GpPoly (F : SmallField) (a : List Nat) : Prop := GpNormal a ∧ ∀ c ∈ a, c < 2 ^ F.m.toNat

/-- `d` divides `a` over the small field. -/
def GpDvd (F : SmallField) (d a : List Nat) : Prop := ∃ q, GpPoly F q ∧ ∀ k, a.getD k 0 = gpProductCoeff F q d k

/-- `gcd(a, b) = 1`: every common divisor has degree 0 (47 R358). -/
def GpCoprime (F : SmallField) (a b : List Nat) : Prop := ∀ d, GpPoly F d → GpDvd F d a → GpDvd F d b → d.length = 1

/-- The polynomials with coefficients `f 0, f 1, …` and `h 0, h 1, …` leave one remainder modulo `g` (47 R366). -/
def GpModEq (F : SmallField) (g : List Nat) (f h : Nat → Nat) : Prop :=
  ∃ q, GpPoly F q ∧ ∀ k, f k ^^^ h k = gpProductCoeff F q g k

/-- `f` is no product of two polynomials of degree 1 or more (47 R362). -/
def GpIrreducible (F : SmallField) (f : List Nat) : Prop :=
  ∀ a b, GpPoly F a → GpPoly F b → 2 ≤ a.length → 2 ≤ b.length → ∃ k, f.getD k 0 ≠ gpProductCoeff F a b k

/-- Cell `(i, j)` of the product of two matrices of size `n` over the small field (46 R331). -/
def SmallField.prodCell (F : SmallField) (n : Nat) (a b : List (List Nat)) (i j : Nat) : Nat :=
  xorSum n (fun k => F.mul (cellAt a i k) (cellAt b k j))

/-- `b` is a matrix of elements, and `a · b` is the identity of size `n` (46 R331). -/
def SmallField.RightInverse (F : SmallField) (n : Nat) (a b : List (List Nat)) : Prop :=
  (∀ i j, i < n → j < n → cellAt b i j < 2 ^ F.m.toNat)
    ∧ ∀ i j, i < n → j < n → F.prodCell n a b i j = if i = j then 1 else 0

/-! ### What a completed command may have changed -/

/-- Byte offset `a` of OM lies in the `k` words from word `w` on. -/
def inWords (a w k : Nat) : Prop := 4 * w ≤ a ∧ a < 4 * (w + k)

/-- `t` is `s` after a command completed without error: `j` candidates drawn, and of the scalar registers, the descriptors
and the OM words (first word, number of words) at most the listed ones written. BASE and CAP are never written. -/
structure Effect (s t : State) (j : Nat) (scalars : List SReg) (descs : List DReg) (stored : List (Nat × Nat)) : Prop where
  ended : t.phase = .idle ∧ t.candidates = 0
  status : t.status = { s.status with done := true }
  itercnt : t.itercnt = iterWord j
  control : t.params = s.params ∧ t.cmd = s.cmd ∧ t.ie = s.ie ∧ t.errcmd = s.errcmd ∧ t.cmdseq = s.cmdseq
    ∧ t.itercap = s.itercap
  scalarsKept : ∀ k, k ∉ scalars → t.S k = s.S k
  descsKept : ∀ d, d ∉ descs → t.D d = s.D d
  memory : ∀ a, (∀ r ∈ stored, ¬ inWords a r.1 r.2) → t.readByte a = s.readByte a
  port : t.env.inputs = s.env.inputs ∧ t.env.response = s.env.response ∧ t.env.resets = s.env.resets
  noDraw : j = 0 → t.env = s.env

/-- Every operand of a command is unchanged: OM, the scalar and descriptor registers, the contexts, the cache. -/
def OperandsKept (s t : State) : Prop :=
  t.om = s.om ∧ t.env.resets = s.env.resets ∧ t.scalars = s.scalars ∧ t.descs = s.descs ∧ t.sf = s.sf ∧ t.efc0 = s.efc0
    ∧ t.efc1 = s.efc1 ∧ t.cob = s.cob ∧ t.params = s.params

/-- The field contexts and the cache are unchanged. -/
def FieldsKept (s t : State) : Prop := t.sf = s.sf ∧ t.efc0 = s.efc0 ∧ t.efc1 = s.efc1 ∧ t.cob = s.cob

/-- Command `i` answers a next state, and that state satisfies `post`. -/
def Completes (i : Instr) (s : State) (post : State → Prop) : Prop := ∃ t, exec i s = .next t ∧ post t

/-- Command `i` only stores its result at `dst`, `k` words of it, and the result is as `post` says. -/
def StoresAt (i : Instr) (s : State) (dst : DReg) (k : Nat) (post : State → Prop) : Prop :=
  Completes i s (fun t => post t ∧ Effect s t 0 [] [dst] [(s.base dst, k)] ∧ FieldsKept s t)

/-- Command `i` only writes `v` to scalar register `dst`. -/
def WritesScalar (i : Instr) (s : State) (dst : SReg) (v : Word) : Prop :=
  Completes i s (fun t => t.S dst = v ∧ Effect s t 0 [dst] [] [] ∧ FieldsKept s t)

/-- Command `i` ends with error `e`: the error latch, and nothing else (60_exceptions R402). -/
def EndsWith (i : Instr) (s : State) (e : ErrCode) : Prop := exec i s = .next (s.latch e 0)

/-- The checks of a command in order, each with its error: the first that fails ends the command with its error, and `last`
holds where none fails (00_scope R12, 60_exceptions R401). -/
def Outcome (i : Instr) (s : State) : List (Prop × ErrCode) → Prop → Prop
  | [], last => last
  | (c, e) :: rest, last => (¬ c → EndsWith i s e) ∧ (c → Outcome i s rest last)

/-! ### Results as they read back -/

/-- `dst` holds polynomial `v` of `len` bits: its words, padding bits 0, its LEN, and no other field of `dst` changed
(20_memory R84). -/
def PolyResult (s t : State) (dst : DReg) (v len : Nat) : Prop :=
  t.poly dst = v ∧ t.readNat (s.base dst) (wordsFor len) = v ∧ t.len dst = len
    ∧ t.D dst = { s.D dst with len := BitVec.ofNat 32 len }

/-- `dst` holds element `x` of context `E` (20_memory R86). -/
def ElemResult (s t : State) (E : ExtField) (dst : DReg) (x : Nat) : Prop :=
  t.elem E dst = x ∧ PolyResult s t dst (E.toStored x) E.deg

/-- `dst` holds the `r × c` GF(2) matrix `m`: its row words, padding bits 0, ROWS and COLS, and never LEN (20_memory R87). -/
def Mat2Result (s t : State) (dst : DReg) (m : List Nat) (r c : Nat) : Prop :=
  t.mat2 dst = m ∧ t.rows dst = r ∧ t.cols dst = c
    ∧ (∀ i, i < r → t.readNat (s.base dst + i * wordsFor c) (wordsFor c) = rowAt m i)
    ∧ t.D dst = { s.D dst with rows := BitVec.ofNat 32 r, cols := BitVec.ofNat 32 c }

/-- `dst` holds the `r × c` matrix `m` over the small field (20_memory R88). -/
def MatMResult (s t : State) (dst : DReg) (m : List (List Nat)) (r c : Nat) : Prop :=
  t.rows dst = r ∧ t.cols dst = c
    ∧ (∀ i j, i < r → j < c → (t.readWord (s.base dst + i * c + j)).toNat = cellAt m i j)
    ∧ t.D dst = { s.D dst with rows := BitVec.ofNat 32 r, cols := BitVec.ofNat 32 c }

/-- `dst` holds polynomial `a` in normal form (20_memory R89). -/
def GoppaResult (s t : State) (dst : DReg) (a : List Nat) : Prop :=
  t.goppa dst = a ∧ t.len dst = goppaLen a
    ∧ (∀ i, i < goppaLen a → (t.readWord (s.base dst + i)).toNat = a.getD i 0)
    ∧ t.D dst = { s.D dst with len := BitVec.ofNat 32 (goppaLen a) }

/-- `dst` holds the byte image `bytes`, zero bytes to the end of its last word (20_memory R90). -/
def ImageResult (s t : State) (dst : DReg) (bytes : List Nat) : Prop :=
  t.len dst = bytes.length
    ∧ (∀ k, k < 4 * imageWords bytes.length → t.imageByte (s.base dst) k = bytes.getD k 0)
    ∧ t.D dst = { s.D dst with len := BitVec.ofNat 32 bytes.length }

end Sys2Proof.Machine

namespace Sys2Proof

/-! ### Whose state a command may touch -/

/-- The descriptors a command may write, and in whose OM words it may store (30_encoding R117). -/
def Instr.descDests : Instr → List DReg
  | .bpAdd dst _ _ => [dst]
  | .bpMulc dst _ _ => [dst]
  | .bpMulk dst _ _ => [dst]
  | .bpSqr dst _ _ => [dst]
  | .bpDiv quot _ _ rem => [quot, rem]
  | .bpRem dst _ _ => [dst]
  | .bpGcd dst _ _ => [dst]
  | .bpRedt dst _ _ => [dst]
  | .bpRedp dst _ _ => [dst]
  | .bpBset poly _ => [poly]
  | .bpBclr poly _ => [poly]
  | .bpBxor poly _ => [poly]
  | .efAdd dst _ _ _ => [dst]
  | .efMul dst _ _ _ => [dst]
  | .efSqr dst _ _ => [dst]
  | .efInv dst _ _ _ => [dst]
  | .efSqrt dst _ _ => [dst]
  | .efHtrace dst _ _ => [dst]
  | .efSolveq dst _ _ => [dst]
  | .efGetp dst _ => [dst]
  | .efRoot dst _ => [dst]
  | .efConv dst _ _ => [dst]
  | .m2Mul dst _ _ => [dst]
  | .m2Vmul dst _ _ => [dst]
  | .m2Mulv dst _ _ => [dst]
  | .m2Inv dst _ => [dst]
  | .m2Trn dst _ => [dst]
  | .m2Dec dst _ => [dst]
  | .m2Enc img _ => [img]
  | .m2mInv dst _ => [dst]
  | .m2mRmulm dst _ _ => [dst]
  | .m2mRmulv dst _ _ => [dst]
  | .m2mLmulv dst _ _ => [dst]
  | .m2mLmulm dst _ _ => [dst]
  | .m2mDec dst _ => [dst]
  | .m2mEnc img _ => [img]
  | .gpAdd dst _ _ => [dst]
  | .gpSmul dst _ _ => [dst]
  | .gpMul dst _ _ => [dst]
  | .gpDiv quot _ _ rem => [quot, rem]
  | .gpMod dst _ _ => [dst]
  | .gpGcd dst _ _ => [dst]
  | .gpMmul dst _ _ _ => [dst]
  | .gpMinv dst _ _ => [dst]
  | .gpMdiv dst _ _ _ => [dst]
  | .gpSqm dst _ _ => [dst]
  | .gpSqrtm dst _ _ => [dst]
  | .gpMono dst _ _ => [dst]
  | .gpAddm dst _ _ => [dst]
  | .nop | .bpDeg .. | .bpBget .. | .bpIrr .. | .sfCfg .. | .sfAdd .. | .sfMul .. | .sfSqr .. | .sfExp ..
  | .sfInv .. | .sfSqrt .. | .sfIsel .. | .efCfg .. | .efTrace .. | .efCob .. | .efFlush | .m2Isz ..
  | .gpIrr .. | .gpDeg .. => []

/-- The scalar registers a command may write (30_encoding R117). -/
def Instr.scalarDests : Instr → List SReg
  | .bpDeg dst _ => [dst]
  | .bpBget dst _ _ => [dst]
  | .bpIrr dst _ => [dst]
  | .sfAdd dst _ _ => [dst]
  | .sfMul dst _ _ => [dst]
  | .sfSqr dst _ => [dst]
  | .sfExp dst _ _ => [dst]
  | .sfInv dst _ => [dst]
  | .sfSqrt dst _ => [dst]
  | .sfIsel dst _ => [dst]
  | .efTrace dst _ _ => [dst]
  | .m2Isz dst _ => [dst]
  | .gpIrr dst _ => [dst]
  | .gpDeg dst _ => [dst]
  | .nop | .bpAdd .. | .bpMulc .. | .bpMulk .. | .bpSqr .. | .bpDiv .. | .bpRem .. | .bpGcd .. | .bpRedt ..
  | .bpRedp .. | .bpBset .. | .bpBclr .. | .bpBxor .. | .sfCfg .. | .efCfg .. | .efAdd .. | .efMul ..
  | .efSqr .. | .efInv .. | .efSqrt .. | .efHtrace .. | .efSolveq .. | .efGetp .. | .efRoot .. | .efCob ..
  | .efConv .. | .efFlush | .m2Mul .. | .m2Vmul .. | .m2Mulv .. | .m2Inv .. | .m2Trn .. | .m2Dec ..
  | .m2Enc .. | .m2mInv .. | .m2mRmulm .. | .m2mRmulv .. | .m2mLmulv .. | .m2mLmulm .. | .m2mDec ..
  | .m2mEnc .. | .gpAdd .. | .gpSmul .. | .gpMul .. | .gpDiv .. | .gpMod .. | .gpGcd .. | .gpMmul ..
  | .gpMinv .. | .gpMdiv .. | .gpSqm .. | .gpSqrtm .. | .gpMono .. | .gpAddm .. => []

/-- The commands that draw candidates (10_state R39). -/
def Instr.draws (i : Instr) : Bool :=
  match i with
  | .efSolveq _ _ _ | .efRoot _ _ | .efCob _ | .efConv _ _ _ => true
  | .nop | .bpAdd .. | .bpMulc .. | .bpMulk .. | .bpSqr .. | .bpDiv .. | .bpRem .. | .bpGcd .. | .bpRedt ..
  | .bpRedp .. | .bpDeg .. | .bpBget .. | .bpBset .. | .bpBclr .. | .bpBxor .. | .bpIrr .. | .sfCfg ..
  | .sfAdd .. | .sfMul .. | .sfSqr .. | .sfExp .. | .sfInv .. | .sfSqrt .. | .sfIsel .. | .efCfg ..
  | .efAdd .. | .efMul .. | .efSqr .. | .efInv .. | .efSqrt .. | .efTrace .. | .efHtrace .. | .efGetp ..
  | .efFlush | .m2Mul .. | .m2Vmul .. | .m2Mulv .. | .m2Inv .. | .m2Trn .. | .m2Isz .. | .m2Dec .. | .m2Enc ..
  | .m2mInv .. | .m2mRmulm .. | .m2mRmulv .. | .m2mLmulv .. | .m2mLmulm .. | .m2mDec .. | .m2mEnc ..
  | .gpAdd .. | .gpSmul .. | .gpMul .. | .gpDiv .. | .gpMod .. | .gpGcd .. | .gpMmul .. | .gpMinv ..
  | .gpMdiv .. | .gpSqm .. | .gpSqrtm .. | .gpIrr .. | .gpDeg .. | .gpMono .. | .gpAddm .. => false

/-! ### The opcode table's match and mask words (30_encoding R118) -/

/-- A row of the opcode table: `(w & mask) = match` (R118). -/
structure MaskRow where
  matchWord : Word
  mask : Word
deriving DecidableEq, Repr

/-- The rows of the Control family. -/
def maskRowsControl : List MaskRow :=
  [⟨0x00000000, 0xFFFFFFFF⟩]

/-- The rows of the Bp family. -/
def maskRowsBp : List MaskRow :=
  [⟨0x00000010, 0xFFFE00FF⟩, ⟨0x00000011, 0xFFFE00FF⟩, ⟨0x00000012, 0xFFFE00FF⟩, ⟨0x00000013, 0xFF7FC0FF⟩,
   ⟨0x00000014, 0xFFF000FF⟩, ⟨0x00000015, 0xFFFE00FF⟩, ⟨0x00000016, 0xFFFE00FF⟩, ⟨0x00000017, 0xFFFE00FF⟩,
   ⟨0x00000018, 0xFFFE00FF⟩, ⟨0x00000019, 0xFFFFC0FF⟩, ⟨0x0000001A, 0xFFFE00FF⟩, ⟨0x0000001B, 0xFFFFC0FF⟩,
   ⟨0x0000001C, 0xFFFFC0FF⟩, ⟨0x0000001D, 0xFFFFC0FF⟩, ⟨0x0000001E, 0xFFFFC0FF⟩]

/-- The rows of the Sf family. -/
def maskRowsSf : List MaskRow :=
  [⟨0x00000020, 0xFFFE07FF⟩, ⟨0x00000021, 0xFFFE00FF⟩, ⟨0x00000022, 0xFFFE00FF⟩, ⟨0x00000023, 0xFFFFC0FF⟩,
   ⟨0x00000024, 0xFFFE00FF⟩, ⟨0x00000025, 0xFFFFC0FF⟩, ⟨0x00000026, 0xFFFFC0FF⟩, ⟨0x00000027, 0xFFFFC0FF⟩]

/-- The rows of the Ef family. -/
def maskRowsEf : List MaskRow :=
  [⟨0x00000030, 0xFDFE07FF⟩, ⟨0x00000031, 0xFDFE00FF⟩, ⟨0x00000032, 0xFDFE00FF⟩, ⟨0x00000033, 0xFDFFC0FF⟩,
   ⟨0x00000034, 0xFC7FC0FF⟩, ⟨0x00000035, 0xFDFFC0FF⟩, ⟨0x00000036, 0xFDFFC0FF⟩, ⟨0x00000037, 0xFDFFC0FF⟩,
   ⟨0x00000038, 0xFDFFC0FF⟩, ⟨0x00000039, 0xFDFFF8FF⟩, ⟨0x0000003A, 0xFDFFF8FF⟩, ⟨0x0000003B, 0xFDFFFFFF⟩,
   ⟨0x0000003C, 0xFDFFC0FF⟩, ⟨0x0000003D, 0xFFFFFFFF⟩]

/-- The rows of the M2 family. -/
def maskRowsM2 : List MaskRow :=
  [⟨0x00000040, 0xFFFE00FF⟩, ⟨0x00000041, 0xFFFE00FF⟩, ⟨0x00000042, 0xFFFE00FF⟩, ⟨0x00000043, 0xFFFFC0FF⟩,
   ⟨0x00000044, 0xFFFFC0FF⟩, ⟨0x00000045, 0xFFFFC0FF⟩, ⟨0x00000046, 0xFFFFC0FF⟩, ⟨0x00000047, 0xFFFFC0FF⟩]

/-- The rows of the M2m family. -/
def maskRowsM2m : List MaskRow :=
  [⟨0x00000050, 0xFFFFC0FF⟩, ⟨0x00000051, 0xFFFE00FF⟩, ⟨0x00000052, 0xFFFE00FF⟩, ⟨0x00000053, 0xFFFE00FF⟩,
   ⟨0x00000054, 0xFFFE00FF⟩, ⟨0x00000055, 0xFFFFC0FF⟩, ⟨0x00000056, 0xFFFFC0FF⟩]

/-- The rows of the Gp family. -/
def maskRowsGp : List MaskRow :=
  [⟨0x00000060, 0xFFFE00FF⟩, ⟨0x00000061, 0xFFFE00FF⟩, ⟨0x00000062, 0xFFFE00FF⟩, ⟨0x00000063, 0xFFF000FF⟩,
   ⟨0x00000064, 0xFFFE00FF⟩, ⟨0x00000065, 0xFFFE00FF⟩, ⟨0x00000066, 0xFFF000FF⟩, ⟨0x00000067, 0xFFFE00FF⟩,
   ⟨0x00000068, 0xFFF000FF⟩, ⟨0x00000069, 0xFFFE00FF⟩, ⟨0x0000006A, 0xFFFE00FF⟩, ⟨0x0000006B, 0xFFFFC0FF⟩,
   ⟨0x0000006C, 0xFFFFC0FF⟩, ⟨0x0000006D, 0xFFFE00FF⟩, ⟨0x0000006E, 0xFFFE00FF⟩]

/-- All 68 rows. -/
def maskRows : List MaskRow :=
  maskRowsControl ++ maskRowsBp ++ maskRowsSf ++ maskRowsEf ++ maskRowsM2 ++ maskRowsM2m ++ maskRowsGp

/-- The two checks R118 leaves out of the masks: EF.INV's ALG = 3 (R114) and the scalar base ranges (R113). -/
def maskExtra (w : Word) : Bool :=
  if opcOf w = 0x34 then algOf w != 3
  else if opcOf w = 0x17 then decide ((f3Of w).val ≤ 6)
  else if opcOf w = 0x18 then decide ((f3Of w).val ≤ 4)
  else if opcOf w = 0x30 then decide ((f3Of w).val ≤ 5)
  else true

/-- Word `w` meets a row of the opcode table and the two checks beside it (R113, R114, R118). -/
def maskAccepts (w : Word) : Bool := maskRows.any (fun r => w &&& r.mask == r.matchWord) && maskExtra w

end Sys2Proof
end

