-- ==== Sys2Proof/Certificates/Slice0/Obligations.lean ====
section
/-! DEFINITION. The statements for the provers: encoding, the life of a command, the host port, and each command's errors in
order and effect, from the numbered rules of spec/. A conclusion `Outcome i s checks last` says that the first failing check ends
the command with its error and that `last` holds where none fails. -/

section Statements

open Sys2Proof Sys2Proof.Machine

/-- Decoding the encoding of a well-formed command gives it back (30_encoding.md R110, R117, R119). -/
def Obligations.DecodeOfEncodeIsTheCommand : Prop :=
  ∀ i : Instr, i.wellFormed = true → decode (encode i) = .ok i

/-- A word that decodes is the encoding of the command it decodes to, and that command is well-formed (30_encoding.md
R112, R113, R115, R119). -/
def Obligations.EncodeOfDecodeIsTheWord : Prop :=
  ∀ (w : Word) (i : Instr), decode w = .ok i → i.wellFormed = true ∧ encode i = w

/-- The decoder accepts exactly the words that meet a row's match and mask, but for EF.INV ALG = 3 and the scalar base
ranges (R118). -/
def Obligations.DecoderAcceptsByMatchAndMask : Prop :=
  ∀ w : Word, (∃ i, decode w = .ok i) ↔ maskAccepts w = true

/-- The worked encodings of R121 decode to the commands they stand for, and the word with bit 26 set does not decode
(R121). -/
def Obligations.WorkedEncodings : Prop :=
  (encode .nop = 0x00000000 ∧ decode 0x00000000 = .ok .nop)
    ∧ (encode (.bpAdd 0 1 2) = 0x00008810 ∧ decode 0x00008810 = .ok (.bpAdd 0 1 2))
    ∧ (encode (.bpDiv 2 0 1 3) = 0x00064214 ∧ decode 0x00064214 = .ok (.bpDiv 2 0 1 3))
    ∧ (encode (.sfCfg 0 1) = 0x00004020 ∧ decode 0x00004020 = .ok (.sfCfg 0 1))
    ∧ (encode (.sfInv 2 1) = 0x00000A25 ∧ decode 0x00000A25 = .ok (.sfInv 2 1))
    ∧ (encode (.efCfg 0 0 .efc1) = 0x02000030 ∧ decode 0x02000030 = .ok (.efCfg 0 0 .efc1))
    ∧ (encode (.m2Inv 1 0) = 0x00000143 ∧ decode 0x00000143 = .ok (.m2Inv 1 0))
    ∧ (encode (.gpGcd 2 0 1) = 0x00004265 ∧ decode 0x00004265 = .ok (.gpGcd 2 0 1))
    ∧ decode 0x04000000 = .error .reservedBits

/-- An engine turn while BUSY runs exactly the command CMD decodes to, or ends it with ILLEGAL_CMD where CMD fails decode
(30_encoding.md R115, 70_reset_and_hazards.md R450, R451). The model's choice, not the spec's, in part: log entry 1. -/
def Obligations.EngineTurnRunsTheDecodedCommand : Prop :=
  ∀ (s : State), s.phase = .busy →
    (∀ i, decode s.cmd = .ok i →
      (s.env.inputs = [] → step s = exec i s)
        ∧ ∀ rest, s.env.inputs = .engine :: rest → step s = exec i (s.withInputs rest))
    ∧ (∀ r, decode s.cmd = .error r →
      (s.env.inputs = [] → step s = .next (s.latch .illegalCmd 0))
        ∧ ∀ rest, s.env.inputs = .engine :: rest → step s = .next ((s.withInputs rest).latch .illegalCmd 0))

/-- A CMD write while IDLE with ERR = 0 is accepted, and the engine's next turn runs that command (70_reset_and_hazards.md
R451, 10_state.md R32, R34). The model's choice, not the spec's, in part: log entry 1. -/
def Obligations.AcceptedIssueRunsTheCommand : Prop :=
  ∀ (s : State) (i : Instr) (rest : List Input), i.wellFormed = true → s.phase = .idle → s.status.err = false →
    s.env.inputs = hostWriteAt s.params 0x004 (encode i) :: rest →
    ∃ t, step s = .next t ∧ t.cmd = encode i ∧ t.phase = .busy ∧ t.status = { s.status with done := false }
      ∧ t.cmdseq = s.cmdseq + 1 ∧ OperandsKept s t ∧ t.ie = s.ie ∧ t.errcmd = s.errcmd ∧ t.itercap = s.itercap
      ∧ t.itercnt = s.itercnt ∧ t.env.inputs = rest
      ∧ ∀ rest', rest = .engine :: rest' → step t = exec i (t.withInputs rest')

/-- A CMD write while BUSY or ERR only sets REJ; writing 1 to STATUS bit 2 clears the error and the next issue is accepted
(60_exceptions.md R403, R404, 70_reset_and_hazards.md R451). The model's choice, not the spec's, in part: log entries
1, 15. -/
def Obligations.RejectedIssueAndRecovery : Prop :=
  (∀ (s : State) (w : Word) (rest : List Input), s.phase = .busy ∨ s.status.err = true →
    s.env.inputs = hostWriteAt s.params 0x004 w :: rest →
    step s = .next { s with
      status := { s.status with rej := true }
      env := { s.env with inputs := rest, response := .written } })
  ∧ (∀ (s : State) (v w : Word) (rest : List Input), s.phase = .idle → s.status.err = true → v.getLsbD 2 = true →
    s.env.inputs = hostWriteAt s.params 0x008 v :: hostWriteAt s.params 0x004 w :: rest →
    ∃ t u, step s = .next t ∧ t.status.err = false ∧ t.status.errcode = 0 ∧ t.errcmd = s.errcmd ∧ OperandsKept s t
      ∧ step t = .next u ∧ u.phase = .busy ∧ u.cmd = w ∧ u.cmdseq = s.cmdseq + 1 ∧ u.errcmd = s.errcmd)

/-- Every command on every state completes or, for the four drawing commands, stays BUSY with one more candidate drawn
(70_reset_and_hazards.md R450, R455, 43_ext_field.md R242, 44_basis_conversion.md R271). The model's choice, not the
spec's, in part: log entry 5. -/
def Obligations.EveryCommandGoesOn : Prop :=
  ∀ (i : Instr) (s : State), ∃ t, exec i s = .next t ∧
    ((t.phase = .idle ∧ t.status.done = true ∧ t.candidates = 0)
      ∨ (i.draws = true ∧ t.candidates = s.candidates + 1
          ∧ t = { s with candidates := t.candidates, env := { s.env with answers := t.env.answers, answered := t.env.answered } }))

/-- A command that ends with an error latches it and changes nothing else (60_exceptions.md R400, R402, 00_scope.md R13).
The model's choice, not the spec's, in part: log entry 11. -/
def Obligations.ErrorIsPrecise : Prop :=
  ∀ (i : Instr) (s t : State), exec i s = .next t → s.status.err = false → t.status.err = true →
    ∃ (e : ErrCode) (j : Nat), (j = 0 ∨ j = s.candidates ∨ j = s.candidates + 1)
      ∧ t.phase = .idle ∧ t.candidates = 0 ∧ t.itercnt = iterWord j ∧ t.errcmd = s.cmd
      ∧ t.status = { s.status with done := true, err := true, errcode := e.code }
      ∧ OperandsKept s t ∧ t.cmd = s.cmd ∧ t.cmdseq = s.cmdseq ∧ t.ie = s.ie ∧ t.itercap = s.itercap

/-- No command changes a byte of OM outside the CAP words of the descriptors it names as destinations (20_memory.md R83,
R94, 60_exceptions.md R402). -/
def Obligations.CommandsStoreOnlyInTheirDestinations : Prop :=
  ∀ (i : Instr) (s t : State) (a : Nat), exec i s = .next t →
    (∀ d ∈ i.descDests, ¬ inWords a (s.base d) (s.cap d)) → t.readByte a = s.readByte a

/-- No command writes a register, context or cache it does not name; BASE and CAP are never written by a command
(10_state.md R41, R43, R45, R47, 00_scope.md R13). -/
def Obligations.CommandsKeepEveryOtherRegister : Prop :=
  ∀ (i : Instr) (s t : State), exec i s = .next t →
    (∀ k, k ∉ i.scalarDests → t.S k = s.S k)
    ∧ (∀ d, d ∉ i.descDests → t.D d = s.D d)
    ∧ (∀ d, (t.D d).base = (s.D d).base ∧ (t.D d).cap = (s.D d).cap)
    ∧ ((∀ m p, i ≠ .sfCfg m p) → t.sf = s.sf)
    ∧ (∀ c, (∀ p b, i ≠ .efCfg p b c) → t.efc c = s.efc c)
    ∧ ((∀ c, i ≠ .efCob c) → (∀ d a c, i ≠ .efConv d a c) → i ≠ .efFlush → t.cob = s.cob)
    ∧ t.params = s.params ∧ t.cmd = s.cmd ∧ t.cmdseq = s.cmdseq ∧ t.ie = s.ie ∧ t.itercap = s.itercap
    ∧ t.status.rej = s.status.rej ∧ t.status.busyacc = s.status.busyacc
    ∧ t.env.inputs = s.env.inputs ∧ t.env.response = s.env.response ∧ t.env.resets = s.env.resets

/-- Every step keeps the invariant of the machine (10_state.md R33, R38, R43, R44, R45, R46, R47, 20_memory.md R80,
60_exceptions.md R400, 70_reset_and_hazards.md R451). -/
def Obligations.StepKeepsTheMachineInvariant : Prop :=
  ∀ s t : State, s.Inv → step s = .next t → t.Inv

/-- The state right after reset satisfies the invariant of the machine (70_reset_and_hazards.md R441, 00_scope.md R6). The
model's choice, not the spec's, in part: log entry 9. -/
def Obligations.ResetSatisfiesTheMachineInvariant : Prop :=
  State.reset.Inv

/-- A step faults exactly when the next input is a host access below BLOCK_BASE, and never refuses (00_scope.md R3, R6,
60_exceptions.md R406). The model's choice, not the spec's, in part: log entry 12. -/
def Obligations.OnlyAccessesOutsideTheBlockFault : Prop :=
  ∀ s : State, (s.SafeStep ↔ ¬ s.NextOutside)
    ∧ (∀ a rest, s.env.inputs = .host a :: rest → a.addr < s.params.blockBase →
        step s = .fault (.outsideBlock a.addr))

/-- Asserting reset, in any state, puts every register at the value of R441 and abandons a running command
(70_reset_and_hazards.md R440, R441). The model's choice, not the spec's, in part: log entries 1, 7, 13. -/
def Obligations.ResetEventPutsEveryRegisterAtItsResetValue : Prop :=
  ∀ s t : State, ((∃ rest, s.env.inputs = .reset :: rest) ∧ step s = .next t) ∨ t = State.reset →
    t.phase = .idle ∧ t.irq = false ∧ t.om = [] ∧ t.cob = [] ∧ t.efc0.indexMap = [] ∧ t.efc1.indexMap = []
    ∧ t.efc0.poly = 0 ∧ t.efc1.poly = 0
    ∧ t.readLoc .id = 0x49430011 ∧ t.readLoc .cmd = 0 ∧ t.readLoc .status = 0 ∧ t.readLoc .ie = 0 ∧ t.readLoc .errcmd = 0
    ∧ t.readLoc .cmdseq = 0 ∧ t.readLoc .itercap = 0 ∧ t.readLoc .itercnt = 0 ∧ t.readLoc .sfM = 0 ∧ t.readLoc .sfPoly = 0
    ∧ t.readLoc .sfValid = 0 ∧ t.readLoc .cobUsed = 0 ∧ t.readLoc .cfgOmWords = t.params.omWords
    ∧ t.readLoc .cfgNMax = t.params.nMax ∧ t.readLoc .cfgCobEntries = t.params.cobEntries
    ∧ (∀ k, t.readLoc (.scalar k) = 0)
    ∧ (∀ d, t.readLoc (.descBase d) = 0 ∧ t.readLoc (.descLen d) = 0 ∧ t.readLoc (.descRows d) = 0
        ∧ t.readLoc (.descCols d) = 0 ∧ t.readLoc (.descCap d) = 0)
    ∧ (∀ c, t.readLoc (.efValid c) = 0 ∧ t.readLoc (.efKind c) = 0 ∧ t.readLoc (.efN c) = 0
        ∧ t.readLoc (.efFieldId c) = 0 ∧ t.readLoc (.efRType c) = 0 ∧ t.readLoc (.efK1 c) = 0
        ∧ t.readLoc (.efK2 c) = 0 ∧ t.readLoc (.efK3 c) = 0)
    ∧ (t ≠ State.reset → t.params = s.params)

/-- A host write to STATUS clears DONE, ERR, REJ and BUSYACC where it has a 1, clearing ERR zeroes ERRCODE, and IRQ
follows (10_state.md R33, R48, R50, 20_memory.md R96, R98). -/
def Obligations.StatusWriteClearsTheBitsWrittenWithOne : Prop :=
  ∀ (s : State) (v : Word), ∃ t, hostAccess (.write (s.params.blockBase + 0x008) 4 v) s = .next t
    ∧ (∀ k, 1 ≤ k → k ≤ 4 → t.statusWord.getLsbD k = (s.statusWord.getLsbD k && !v.getLsbD k))
    ∧ t.statusWord.getLsbD 0 = s.statusWord.getLsbD 0 ∧ t.statusWord.getLsbD 0 = decide (t.phase = .busy)
    ∧ (∀ k, 8 ≤ k → k ≤ 15 → t.statusWord.getLsbD k = (!v.getLsbD 2 && s.statusWord.getLsbD k))
    ∧ (∀ k, (5 ≤ k ∧ k ≤ 7) ∨ 16 ≤ k → t.statusWord.getLsbD k = false)
    ∧ OperandsKept s t ∧ t.cmd = s.cmd ∧ t.phase = s.phase ∧ t.ie = s.ie ∧ t.errcmd = s.errcmd ∧ t.cmdseq = s.cmdseq
    ∧ t.itercap = s.itercap ∧ t.itercnt = s.itercnt
    ∧ t.irq = ((t.statusWord.getLsbD 1 && t.ie.word.getLsbD 0) || (t.statusWord.getLsbD 2 && t.ie.word.getLsbD 1))

/-- While BUSY a host read of a scalar register, descriptor field or OM word gives 0, a write to them or to ITERCAP is
ignored, and either sets BUSYACC (20_memory.md R82, R96, R98). The model's choice, not the spec's, in part: log entry
15. -/
def Obligations.BusyBlocksScalarsDescriptorsAndOm : Prop :=
  ∀ (s : State) (off : Nat) (v : Word), s.phase = .busy →
    ((∃ k : Fin 8, off = 0x040 + 4 * k.val) ∨ (∃ (d : Fin 8) (f : Fin 5), off = 0x100 + 0x20 * d.val + 4 * f.val)
        ∨ (∃ w, w < s.params.omWords.toNat ∧ off = 0x100000 + 4 * w) →
      hostAccess (.read (s.params.blockBase + off) 4) s = .next (s.setBusyacc.respond (.data 0))
        ∧ hostAccess (.write (s.params.blockBase + off) 4 v) s = .next (s.setBusyacc.respond .written))
    ∧ hostAccess (.write (s.params.blockBase + 0x018) 4 v) s = .next (s.setBusyacc.respond .written)
    ∧ hostAccess (.read (s.params.blockBase + 0x018) 4) s = .next (s.respond (.data s.itercap))
    ∧ hostAccess (.read (s.params.blockBase + 0x008) 4) s = .next (s.respond (.data s.statusWord))
    ∧ hostAccess (.read (s.params.blockBase + 0x01C) 4) s = .next (s.respond (.data s.itercnt))

/-- Registers and OM read their value; a write changes the RW place written and nothing else, RO offsets ignore it;
reserved offsets read 0; others get a bus error (20_memory.md R82, R95, R96, R98, 10_state.md R31, R32, R33, R34, R35,
R36, R37, R38, R39, R40, R41, R42, R43, R44, R45, R52). The model's choice, not the spec's, in part: log entry 15. -/
def Obligations.HostPortStoresAndReadsBack : Prop :=
  ∀ (s : State) (off : Nat) (v : Word),
    (∀ bytes, bytes ≠ 4 ∨ off % 4 ≠ 0 →
      hostAccess (.read (s.params.blockBase + off) bytes) s = .next (s.respond .busError)
        ∧ hostAccess (.write (s.params.blockBase + off) bytes v) s = .next (s.respond .busError))
    ∧ (s.phase = .idle →
        ((∃ k : Fin 8, off = 0x040 + 4 * k.val) ∨ (∃ (d : Fin 8) (f : Fin 5), off = 0x100 + 0x20 * d.val + 4 * f.val)
          ∨ off = 0x018 ∨ (∃ w, w < s.params.omWords.toNat ∧ off = 0x100000 + 4 * w)) →
        ∃ t, hostAccess (.write (s.params.blockBase + off) 4 v) s = .next t
          ∧ hostAccess (.read (s.params.blockBase + off) 4) t = .next (t.respond (.data v))
          ∧ ∀ a, (∀ w, off = 0x100000 + 4 * w → ¬ inWords a w 1) → t.readByte a = s.readByte a)
    ∧ (s.phase = .idle → ∀ k : SReg,
        hostAccess (.read (s.params.blockBase + (0x040 + 4 * k.val)) 4) s = .next (s.respond (.data (s.S k)))
        ∧ ∃ t, hostAccess (.write (s.params.blockBase + (0x040 + 4 * k.val)) 4 v) s = .next t
            ∧ t.S k = v ∧ (∀ j, j ≠ k → t.S j = s.S j)
            ∧ t = { s with scalars := t.scalars, env := { s.env with response := .written } })
    ∧ (s.phase = .idle → ∀ d : DReg,
        ∀ r ∈ ([(0x00, (s.D d).base, { s.D d with base := v }), (0x04, (s.D d).len, { s.D d with len := v }),
            (0x08, (s.D d).rows, { s.D d with rows := v }), (0x0C, (s.D d).cols, { s.D d with cols := v }),
            (0x10, (s.D d).cap, { s.D d with cap := v })] : List (Nat × Word × Desc)),
        hostAccess (.read (s.params.blockBase + (0x100 + 0x20 * d.val + r.1)) 4) s = .next (s.respond (.data r.2.1))
        ∧ ∃ t, hostAccess (.write (s.params.blockBase + (0x100 + 0x20 * d.val + r.1)) 4 v) s = .next t
            ∧ t.D d = r.2.2 ∧ (∀ e, e ≠ d → t.D e = s.D e)
            ∧ t = { s with descs := t.descs, env := { s.env with response := .written } })
    ∧ (s.phase = .idle → ∀ w, w < s.params.omWords.toNat →
        hostAccess (.read (s.params.blockBase + (0x100000 + 4 * w)) 4) s = .next (s.respond (.data (s.readWord w)))
        ∧ ∃ t, hostAccess (.write (s.params.blockBase + (0x100000 + 4 * w)) 4 v) s = .next t
            ∧ t.readWord w = v ∧ (∀ a, ¬ inWords a w 1 → t.readByte a = s.readByte a)
            ∧ t = { s with om := t.om, env := { s.env with response := .written } })
    ∧ (s.phase = .idle → hostAccess (.write (s.params.blockBase + 0x018) 4 v) s
        = .next { s with itercap := v, env := { s.env with response := .written } })
    ∧ (∃ t, hostAccess (.write (s.params.blockBase + 0x00C) 4 v) s = .next t
        ∧ hostAccess (.read (s.params.blockBase + 0x00C) 4) t = .next (t.respond (.data (v &&& 3)))
        ∧ t = { s with ie := t.ie, env := { s.env with response := .written } })
    ∧ (∀ r ∈ ([(0x000, 0x49430011), (0x004, s.cmd),
          (0x008, BitVec.ofNat 32 ((if s.phase = .busy then 1 else 0) + (if s.status.done then 2 else 0)
            + (if s.status.err then 4 else 0) + (if s.status.rej then 8 else 0) + (if s.status.busyacc then 16 else 0)
            + 256 * s.status.errcode.toNat)),
          (0x00C, BitVec.ofNat 32 ((if s.ie.doneIE then 1 else 0) + (if s.ie.errIE then 2 else 0))),
          (0x010, s.errcmd), (0x014, s.cmdseq), (0x018, s.itercap), (0x01C, s.itercnt), (0x020, s.sf.m), (0x024, s.sf.poly),
          (0x028, if s.sf.valid then 1 else 0), (0x02C, BitVec.ofNat 32 s.cob.length), (0x030, s.params.omWords),
          (0x034, s.params.nMax), (0x038, s.params.cobEntries)] : List (Nat × Word)),
        hostAccess (.read (s.params.blockBase + r.1) 4) s = .next (s.respond (.data r.2)))
    ∧ (∀ e ∈ [(0x200, s.efc0), (0x220, s.efc1)], ∀ r ∈ ([(0x00, if e.2.valid then 1 else 0),
          (0x04, if e.2.kind = .poly then 0 else if e.2.kind = .onb1 then 1 else 2), (0x08, e.2.n), (0x0C, e.2.fieldId),
          (0x10, if e.2.rtype = .generic then 0 else if e.2.rtype = .trinomial then 1 else 2), (0x14, e.2.k1), (0x18, e.2.k2),
          (0x1C, e.2.k3)] : List (Nat × Word)),
        hostAccess (.read (s.params.blockBase + (e.1 + r.1)) 4) s = .next (s.respond (.data r.2)))
    ∧ (off ∈ [0x000, 0x010, 0x014, 0x01C] ∨ (∃ k : Fin 7, off = 0x020 + 4 * k.val) ∨ (∃ k : Fin 16, off = 0x200 + 4 * k.val) →
        hostAccess (.write (s.params.blockBase + off) 4 v) s = .next (s.respond .written))
    ∧ (off % 4 = 0 →
        off = 0x03C ∨ (0x060 ≤ off ∧ off < 0x100) ∨ (0x240 ≤ off ∧ off < 0x100000)
          ∨ 0x100000 + 4 * s.params.omWords.toNat ≤ off
          ∨ (s.phase = .idle ∧ ∃ (d f : Nat), d < 8 ∧ 5 ≤ f ∧ f < 8 ∧ off = 0x100 + 0x20 * d + 4 * f) →
        hostAccess (.read (s.params.blockBase + off) 4) s = .next (s.respond (.data 0))
          ∧ hostAccess (.write (s.params.blockBase + off) 4 v) s = .next (s.respond .written))

/-- NOP changes nothing but the completion state; EF.FLUSH empties the cache and nothing else (R140, R276). -/
def Obligations.NopAndFlushComplete : Prop :=
  ∀ s : State,
    Completes .nop s (fun t => Effect s t 0 [] [] [] ∧ FieldsKept s t)
    ∧ Completes .efFlush s (fun t => t.cob = [] ∧ t.readLoc .cobUsed = 0 ∧ Effect s t 0 [] [] []
        ∧ t.sf = s.sf ∧ t.efc0 = s.efc0 ∧ t.efc1 = s.efc1)

/-- BP.ADD: its errors in order, and otherwise A ⊕ B of max(La, Lb) bits at dst and nothing else (R151). -/
def Obligations.BpAddIsExclusiveOr : Prop :=
  ∀ (s : State) (dst a b : DReg), s.params.legal = true →
    Outcome (.bpAdd dst a b) s
      [(s.PolySource a, .bounds), (s.PolySource b, .bounds), (s.inOm dst, .bounds),
       (wordsFor (max (s.len a) (s.len b)) ≤ s.cap dst, .capacity)]
      (StoresAt (.bpAdd dst a b) s dst (wordsFor (max (s.len a) (s.len b)))
        (fun t => PolyResult s t dst (s.poly a ^^^ s.poly b) (max (s.len a) (s.len b))))

/-- BP.MULC and BP.MULK: the same errors in order, and otherwise the same carry-less product of 2·max(La, Lb) bits (R152,
R153). -/
def Obligations.BpMulcAndBpMulkStoreTheProduct : Prop :=
  ∀ (s : State) (dst a b : DReg) (i : Instr), i = .bpMulc dst a b ∨ i = .bpMulk dst a b → s.params.legal = true →
    ∃ v, (∀ k, v.testBit k = productBit (s.poly a) (s.poly b) k) ∧
    Outcome i s
      [(s.PolySource a, .bounds), (s.PolySource b, .bounds), (s.inOm dst, .bounds),
       (wordsFor (2 * max (s.len a) (s.len b)) ≤ s.cap dst, .capacity)]
      (StoresAt i s dst (wordsFor (2 * max (s.len a) (s.len b)))
        (fun t => PolyResult s t dst v (2 * max (s.len a) (s.len b))))

/-- BP.SQR, with either algorithm selector: bit i of A moves to bit 2i, which is A ⊗ A, in 2·La bits (R154). -/
def Obligations.BpSqrSpreadsTheBits : Prop :=
  ∀ (s : State) (dst a : DReg) (alg : SqrAlg), s.params.legal = true →
    ∃ v, (∀ k, v.testBit k = (k % 2 == 0 && (s.poly a).testBit (k / 2)))
      ∧ (∀ k, v.testBit k = productBit (s.poly a) (s.poly a) k) ∧
    Outcome (.bpSqr dst a alg) s
      [(s.PolySource a, .bounds), (s.inOm dst, .bounds), (wordsFor (2 * s.len a) ≤ s.cap dst, .capacity)]
      (StoresAt (.bpSqr dst a alg) s dst (wordsFor (2 * s.len a)) (fun t => PolyResult s t dst v (2 * s.len a)))

/-- BP.DIV and BP.REM: the errors in order, and otherwise the Q and R with A = Q ⊗ B ⊕ R and deg(R) < deg(B) (R155, R156). -/
def Obligations.BpDivAndBpRemDivideExactly : Prop :=
  ∀ (s : State) (quot a b rem : DReg), s.params.legal = true →
    (s.poly b ≠ 0 → ∃ q r, (∀ k, (s.poly a).testBit k = (productBit q (s.poly b) k != r.testBit k)) ∧ bitLen r < bitLen (s.poly b)
      ∧ Outcome (.bpDiv quot a b rem) s
          [(s.PolySource a, .bounds), (s.PolySource b, .bounds), (s.inOm quot, .bounds), (s.inOm rem, .bounds),
           (wordsFor (max (bitLen q) 1) ≤ s.cap quot, .capacity), (wordsFor (max (bitLen r) 1) ≤ s.cap rem, .capacity),
           (s.Apart quot rem (wordsFor (max (bitLen q) 1)) (wordsFor (max (bitLen r) 1)), .dstOverlap)]
          (Completes (.bpDiv quot a b rem) s (fun t =>
            PolyResult s t quot q (max (bitLen q) 1) ∧ PolyResult s t rem r (max (bitLen r) 1)
              ∧ Effect s t 0 [] [quot, rem]
                  [(s.base quot, wordsFor (max (bitLen q) 1)), (s.base rem, wordsFor (max (bitLen r) 1))]
              ∧ FieldsKept s t))
      ∧ Outcome (.bpRem rem a b) s
          [(s.PolySource a, .bounds), (s.PolySource b, .bounds), (s.inOm rem, .bounds),
           (wordsFor (max (bitLen r) 1) ≤ s.cap rem, .capacity)]
          (StoresAt (.bpRem rem a b) s rem (wordsFor (max (bitLen r) 1))
            (fun t => PolyResult s t rem r (max (bitLen r) 1))))
    ∧ (s.poly b = 0 →
        Outcome (.bpDiv quot a b rem) s
          [(s.PolySource a, .bounds), (s.PolySource b, .bounds), (s.inOm quot, .bounds), (s.inOm rem, .bounds)]
          (EndsWith (.bpDiv quot a b rem) s .divZero)
        ∧ Outcome (.bpRem rem a b) s
          [(s.PolySource a, .bounds), (s.PolySource b, .bounds), (s.inOm rem, .bounds)]
          (EndsWith (.bpRem rem a b) s .divZero))

/-- BP.GCD: the errors in order, and otherwise the greatest common divisor of A and B (R157). -/
def Obligations.BpGcdIsTheGreatestCommonDivisor : Prop :=
  ∀ (s : State) (dst a b : DReg), s.params.legal = true →
    Outcome (.bpGcd dst a b) s
      [(s.PolySource a, .bounds), (s.PolySource b, .bounds), (s.inOm dst, .bounds), (s.poly a ≠ 0 ∨ s.poly b ≠ 0, .gcdZero)]
      (∃ g, g ≠ 0 ∧ PolyDvd g (s.poly a) ∧ PolyDvd g (s.poly b)
        ∧ (∀ d, PolyDvd d (s.poly a) → PolyDvd d (s.poly b) → PolyDvd d g)
        ∧ Outcome (.bpGcd dst a b) s [(wordsFor (bitLen g) ≤ s.cap dst, .capacity)]
            (StoresAt (.bpGcd dst a b) s dst (wordsFor (bitLen g)) (fun t => PolyResult s t dst g (bitLen g))))

/-- BP.REDT and BP.REDP: the errors in order, and otherwise the remainder of A modulo the trinomial or pentanomial in n
bits (41_binary_poly.md R158, R160, 30_encoding.md R113). The model's choice, not the spec's, in part: log entry 21. -/
def Obligations.BpRedtAndBpRedpReduce : Prop :=
  ∀ (s : State) (dst a : DReg) (base : SReg), s.params.legal = true →
    Outcome (.bpRedt dst a base) s
      [(scalarBaseOk base 2 = true, .illegalCmd), (s.PolySource a, .bounds), (s.inOm dst, .bounds),
       (1 ≤ (s.Sb base 1).toNat ∧ (s.Sb base 1).toNat < (s.Sb base 0).toNat, .illegalParam),
       (wordsFor (s.Sb base 0).toNat ≤ s.cap dst, .capacity)]
      (∃ r, r < 2 ^ (s.Sb base 0).toNat
        ∧ PolyDvd (2 ^ (s.Sb base 0).toNat + 2 ^ (s.Sb base 1).toNat + 1) (s.poly a ^^^ r)
        ∧ StoresAt (.bpRedt dst a base) s dst (wordsFor (s.Sb base 0).toNat)
            (fun t => PolyResult s t dst r (s.Sb base 0).toNat))
    ∧ Outcome (.bpRedp dst a base) s
      [(scalarBaseOk base 4 = true, .illegalCmd), (s.PolySource a, .bounds), (s.inOm dst, .bounds),
       (1 ≤ (s.Sb base 1).toNat ∧ (s.Sb base 1).toNat < (s.Sb base 2).toNat
          ∧ (s.Sb base 2).toNat < (s.Sb base 3).toNat ∧ (s.Sb base 3).toNat < (s.Sb base 0).toNat, .illegalParam),
       (wordsFor (s.Sb base 0).toNat ≤ s.cap dst, .capacity)]
      (∃ r, r < 2 ^ (s.Sb base 0).toNat
        ∧ PolyDvd (2 ^ (s.Sb base 0).toNat + 2 ^ (s.Sb base 3).toNat + 2 ^ (s.Sb base 2).toNat + 2 ^ (s.Sb base 1).toNat + 1)
            (s.poly a ^^^ r)
        ∧ StoresAt (.bpRedp dst a base) s dst (wordsFor (s.Sb base 0).toNat)
            (fun t => PolyResult s t dst r (s.Sb base 0).toNat))

/-- BP.DEG, BP.BGET and BP.IRR: BOUNDS, or the degree, the bit or the test written to dst and nothing else (R159, R161,
R165). The model's choice, not the spec's, in part: log entry 10. -/
def Obligations.BpDegBgetAndIrrWriteTheirScalar : Prop :=
  ∀ (s : State) (dst index : SReg) (a : DReg),
    Outcome (.bpDeg dst a) s [(s.PolySource a, .bounds)]
      (WritesScalar (.bpDeg dst a) s dst (if s.poly a = 0 then 0xFFFFFFFF else BitVec.ofNat 32 (s.poly a).log2))
    ∧ Outcome (.bpBget dst a index) s [(s.PolySource a, .bounds)]
      (WritesScalar (.bpBget dst a index) s dst
        (if (s.S index).toNat < s.len a ∧ (s.poly a).testBit (s.S index).toNat = true then 1 else 0))
    ∧ Outcome (.bpIrr dst a) s [(s.PolySource a, .bounds)]
      (WritesScalar (.bpIrr dst a) s dst (if irreducible s.params.irrConst (s.poly a) = true then 1 else 0))
    ∧ irreducible s.params.irrConst 0 = false ∧ irreducible s.params.irrConst 1 = s.params.irrConst
    ∧ irreducible s.params.irrConst 2 = true ∧ irreducible s.params.irrConst 3 = true

/-- The irreducibility test passes exactly the irreducible polynomials of degree at least 1 (41_binary_poly.md R165). -/
def Obligations.IrreducibilityTestIsExact : Prop :=
  ∀ (c : Bool) (f : Nat), 2 ≤ f → (irreducible c f = true ↔ PolyIrreducible f)

/-- BP.BSET, BP.BCLR and BP.BXOR: BOUNDS, INDEX for an index at or above LEN, and otherwise exactly one bit of the
polynomial set, cleared or flipped in place (R162, R163, R164). -/
def Obligations.BpBitCommandsChangeOneBit : Prop :=
  ∀ (s : State) (p : DReg) (index : SReg) (i : Instr) (f : Bool → Bool),
    (i = .bpBset p index ∧ f = fun _ => true) ∨ (i = .bpBclr p index ∧ f = fun _ => false)
      ∨ (i = .bpBxor p index ∧ f = fun x => !x) →
    s.params.legal = true →
    Outcome i s [(s.PolySource p, .bounds), ((s.S index).toNat < s.len p, .index)]
      (∃ v, (∀ k, v.testBit k = if k = (s.S index).toNat then f ((s.poly p).testBit k) else (s.poly p).testBit k)
        ∧ StoresAt i s p (wordsFor (s.len p)) (fun t => PolyResult s t p v (s.len p)))

/-- SF.CFG: ILLEGAL_FIELD for a degree out of range, a degree mismatch or a reducible polynomial, and otherwise the new
context (R201, 93_implementation_defined.md I16). The model's choice, not the spec's, in part: log entry 10. -/
def Obligations.SfCfgConfiguresOrKeepsTheField : Prop :=
  ∀ (s : State) (m poly : SReg),
    Outcome (.sfCfg m poly) s
      [(2 ≤ (s.S m).toNat ∧ (s.S m).toNat ≤ s.params.mMax, .illegalField),
       (bitLen (s.S poly).toNat = (s.S m).toNat + 1, .illegalField),
       (irreducible true (s.S poly).toNat = true, .illegalField)]
      (Completes (.sfCfg m poly) s (fun t =>
        t.sf = { m := s.S m, poly := s.S poly, valid := true } ∧ Effect s t 0 [] [] []
          ∧ t.efc0 = s.efc0 ∧ t.efc1 = s.efc1 ∧ t.cob = s.cob))

/-- SF.ADD and SF.ISEL: the errors in order, and otherwise the exclusive or, or the membership bit, at dst and nothing
else (R203, R209). -/
def Obligations.SfAddAndSfIselWriteTheirScalar : Prop :=
  ∀ (s : State) (dst a b : SReg),
    Outcome (.sfAdd dst a b) s
      [(s.sf.valid = true, .fieldInvalid), (s.ScalarElem a, .illegalElem), (s.ScalarElem b, .illegalElem)]
      (WritesScalar (.sfAdd dst a b) s dst (s.S a ^^^ s.S b))
    ∧ Outcome (.sfIsel dst a) s [(s.sf.valid = true, .fieldInvalid)]
      (WritesScalar (.sfIsel dst a) s dst (if (s.S a).toNat < 2 ^ s.sf.m.toNat then 1 else 0))

/-- SF.MUL and SF.SQR: the errors in order, and otherwise the carry-less product reduced modulo SF_POLY (R204, R205). -/
def Obligations.SfMulAndSfSqrReduceTheProduct : Prop :=
  ∀ (s : State) (dst a b : SReg), s.sf.ok = true →
    Outcome (.sfMul dst a b) s
      [(s.sf.valid = true, .fieldInvalid), (s.ScalarElem a, .illegalElem), (s.ScalarElem b, .illegalElem)]
      (∃ r, r < 2 ^ s.sf.m.toNat ∧ PolyDvd s.sf.poly.toNat (clmul (s.S a).toNat (s.S b).toNat ^^^ r)
        ∧ WritesScalar (.sfMul dst a b) s dst (BitVec.ofNat 32 r))
    ∧ Outcome (.sfSqr dst a) s [(s.sf.valid = true, .fieldInvalid), (s.ScalarElem a, .illegalElem)]
      (∃ r, r < 2 ^ s.sf.m.toNat ∧ PolyDvd s.sf.poly.toNat (clmul (s.S a).toNat (s.S a).toNat ^^^ r)
        ∧ WritesScalar (.sfSqr dst a) s dst (BitVec.ofNat 32 r))

/-- SF.EXP: the errors in order, and otherwise the product of k factors, of −k factors of the inverse, or 1 (R207). -/
def Obligations.SfExpIsARepeatedProduct : Prop :=
  ∀ (s : State) (dst a k : SReg), s.sf.ok = true →
    Outcome (.sfExp dst a k) s
      [(s.sf.valid = true, .fieldInvalid), (s.ScalarElem a, .illegalElem),
       (0 ≤ (s.S k).toInt ∨ (s.S a).toNat ≠ 0, .invZero)]
      (WritesScalar (.sfExp dst a k) s dst (BitVec.ofNat 32
        (if (s.S k).toInt = 0 then 1
         else if 0 < (s.S k).toInt then s.sf.timesPow (s.S a).toNat (s.S k).toInt.toNat
         else s.sf.timesPow (s.sf.timesPow (s.S a).toNat (2 ^ s.sf.m.toNat - 2)) (-(s.S k).toInt).toNat)))

/-- SF.INV writes the y with x · y = 1 and SF.SQRT the y with y · y = x (R206, R208). -/
def Obligations.SfInvAndSfSqrtInvertTheirProducts : Prop :=
  ∀ (s : State) (dst a : SReg), s.sf.ok = true → (s.sf.valid = true → PolyIrreducible s.sf.poly.toNat) →
    Outcome (.sfInv dst a) s
      [(s.sf.valid = true, .fieldInvalid), (s.ScalarElem a, .illegalElem), ((s.S a).toNat ≠ 0, .invZero)]
      (∃ y, y < 2 ^ s.sf.m.toNat ∧ y = s.sf.timesPow (s.S a).toNat (2 ^ s.sf.m.toNat - 2)
        ∧ PolyDvd s.sf.poly.toNat (clmul (s.S a).toNat y ^^^ 1)
        ∧ WritesScalar (.sfInv dst a) s dst (BitVec.ofNat 32 y))
    ∧ Outcome (.sfSqrt dst a) s [(s.sf.valid = true, .fieldInvalid), (s.ScalarElem a, .illegalElem)]
      (∃ y, y < 2 ^ s.sf.m.toNat ∧ y = repeatTimes (fun z => s.sf.mul z z) (s.sf.m.toNat - 1) (s.S a).toNat
        ∧ PolyDvd s.sf.poly.toNat (clmul y y ^^^ (s.S a).toNat)
        ∧ WritesScalar (.sfSqrt dst a) s dst (BitVec.ofNat 32 y))

/-- EF.CFG of kind 0: the errors in order, and otherwise the context of the polynomial, its reduction class exact
(43_ext_field.md R231, R233, 30_encoding.md R113). The model's choice, not the spec's, in part: log entry 21. -/
def Obligations.EfCfgPolynomialBasis : Prop :=
  ∀ (s : State) (d : DReg) (base : SReg) (c : Ctx), s.params.legal = true → s.Sb base 1 = 0 →
    Outcome (.efCfg d base c) s
      [(scalarBaseOk base 3 = true, .illegalCmd), (s.PolySource d, .bounds),
       (2 ≤ (s.Sb base 0).toNat ∧ (s.Sb base 0).toNat ≤ s.params.nMax.toNat, .illegalField),
       (bitLen (s.poly d) = (s.Sb base 0).toNat + 1, .illegalField), (irreducible true (s.poly d) = true, .illegalField)]
      (Completes (.efCfg d base c) s (fun t =>
        ((t.efc c).valid = true ∧ (t.efc c).kind = .poly ∧ (t.efc c).n = s.Sb base 0 ∧ (t.efc c).fieldId = s.Sb base 2
          ∧ (t.efc c).poly = s.poly d ∧ (t.efc c).indexMap = [])
        ∧ (weight (s.poly d) = 3 → (t.efc c).rtype = .trinomial ∧ (t.efc c).k2 = 0 ∧ (t.efc c).k3 = 0
            ∧ 0 < (t.efc c).k1.toNat ∧ (t.efc c).k1.toNat < (s.Sb base 0).toNat
            ∧ s.poly d = 2 ^ (s.Sb base 0).toNat + 2 ^ (t.efc c).k1.toNat + 1)
        ∧ (weight (s.poly d) = 5 → (t.efc c).rtype = .pentanomial ∧ 0 < (t.efc c).k1.toNat
            ∧ (t.efc c).k1.toNat < (t.efc c).k2.toNat ∧ (t.efc c).k2.toNat < (t.efc c).k3.toNat
            ∧ (t.efc c).k3.toNat < (s.Sb base 0).toNat
            ∧ s.poly d = 2 ^ (s.Sb base 0).toNat + 2 ^ (t.efc c).k3.toNat + 2 ^ (t.efc c).k2.toNat
                + 2 ^ (t.efc c).k1.toNat + 1)
        ∧ (weight (s.poly d) ≠ 3 → weight (s.poly d) ≠ 5 → (t.efc c).rtype = .generic ∧ (t.efc c).k1 = 0
            ∧ (t.efc c).k2 = 0 ∧ (t.efc c).k3 = 0)
        ∧ Effect s t 0 [] [] [] ∧ t.sf = s.sf ∧ t.efc (otherCtx c) = s.efc (otherCtx c) ∧ t.cob = s.cob))

/-- EF.CFG of another kind: ILLEGAL_PARAM above 2, ILLEGAL_FIELD for a degree out of range or without the basis, and
otherwise the normal-basis context (43_ext_field.md R232, R233, 30_encoding.md R113). The model's choice, not the
spec's, in part: log entry 21. -/
def Obligations.EfCfgNormalBasis : Prop :=
  ∀ (s : State) (d : DReg) (base : SReg) (c : Ctx) (kind : Kind),
    (2 < (s.Sb base 1).toNat →
      Outcome (.efCfg d base c) s [(scalarBaseOk base 3 = true, .illegalCmd)] (EndsWith (.efCfg d base c) s .illegalParam))
    ∧ ((s.Sb base 1 = 1 ∧ kind = .onb1) ∨ (s.Sb base 1 = 2 ∧ kind = .onb2) →
      Outcome (.efCfg d base c) s
        [(scalarBaseOk base 3 = true, .illegalCmd),
         (2 ≤ (s.Sb base 0).toNat ∧ (s.Sb base 0).toNat ≤ s.params.nMax.toNat, .illegalField),
         ((onbPrime kind (s.Sb base 0).toNat).Prime
            ∧ (∀ i j, i < (s.Sb base 0).toNat → j < (s.Sb base 0).toNat →
                onbIndex kind (s.Sb base 0).toNat i = onbIndex kind (s.Sb base 0).toNat j → i = j), .illegalField)]
        (Completes (.efCfg d base c) s (fun t =>
          t.efc c = { valid := true, kind := kind, n := s.Sb base 0, fieldId := s.Sb base 2, rtype := .generic,
                      k1 := 0, k2 := 0, k3 := 0, poly := onbPoly kind (s.Sb base 0).toNat,
                      indexMap := onbIndexMap kind (s.Sb base 0).toNat }
          ∧ (kind = .onb1 → ∀ k, (t.efc c).poly.testBit k = decide (k ≤ (s.Sb base 0).toNat))
          ∧ (kind = .onb2 → ∃ f : Nat → Nat, f 0 = 1 ∧ f 1 = 3 ∧ (∀ k, f (k + 2) = (2 * f (k + 1)) ^^^ f k)
              ∧ (t.efc c).poly = f (s.Sb base 0).toNat)
          ∧ (t.efc c).indexMap.length = (s.Sb base 0).toNat
          ∧ (∀ i, i < (s.Sb base 0).toNat → (t.efc c).indexMap.getD i 0
              = if kind = .onb1 then 2 ^ i % ((s.Sb base 0).toNat + 1)
                else min (2 ^ i % (2 * (s.Sb base 0).toNat + 1))
                  (2 * (s.Sb base 0).toNat + 1 - 2 ^ i % (2 * (s.Sb base 0).toNat + 1)))
          ∧ Effect s t 0 [] [] [] ∧ t.sf = s.sf ∧ t.efc (otherCtx c) = s.efc (otherCtx c) ∧ t.cob = s.cob)))

/-- EF.GETP writes the defining polynomial in n + 1 bits and EF.TRACE the trace bit, after their errors in order, and
nothing else (R240, R244). -/
def Obligations.EfGetpAndEfTraceReadTheirContext : Prop :=
  ∀ (s : State) (dst : DReg) (r : SReg) (a : DReg) (c : Ctx), s.params.legal = true → (s.efc c).ok s.params = true →
    Outcome (.efGetp dst c) s
      [((s.efc c).valid = true, .fieldInvalid), (s.inOm dst, .bounds), (wordsFor ((s.efc c).deg + 1) ≤ s.cap dst, .capacity)]
      (StoresAt (.efGetp dst c) s dst (wordsFor ((s.efc c).deg + 1))
        (fun t => PolyResult s t dst (s.efc c).poly ((s.efc c).deg + 1)))
    ∧ Outcome (.efTrace r a c) s
      [((s.efc c).valid = true, .fieldInvalid), (s.PolySource a, .bounds), (s.len a = (s.efc c).deg, .dim)]
      (WritesScalar (.efTrace r a c) s r
        (if xorSum (s.efc c).deg (fun i => repeatTimes (s.efc c).sqr i (s.elem (s.efc c) a)) = (s.efc c).one then 1 else 0))

/-- EF.ADD and EF.MUL: the errors of R234 in order, and otherwise the sum or product of the two elements at dst and
nothing else (R235, R236). -/
def Obligations.EfAddAndEfMulStoreTheirElement : Prop :=
  ∀ (s : State) (dst a b : DReg) (c : Ctx) (i : Instr) (f : Nat → Nat → Nat),
    (i = .efAdd dst a b c ∧ f = fun x y => x ^^^ y) ∨ (i = .efMul dst a b c ∧ f = (s.efc c).mul) →
    (s.efc c).ok s.params = true →
    Outcome i s
      [((s.efc c).valid = true, .fieldInvalid), (s.PolySource a, .bounds), (s.len a = (s.efc c).deg, .dim),
       (s.PolySource b, .bounds), (s.len b = (s.efc c).deg, .dim), (s.inOm dst, .bounds),
       (wordsFor (s.efc c).deg ≤ s.cap dst, .capacity)]
      (StoresAt i s dst (wordsFor (s.efc c).deg)
          (fun t => ElemResult s t (s.efc c) dst (f (s.elem (s.efc c) a) (s.elem (s.efc c) b)))
        ∧ ((s.efc c).kind = .poly → ∀ x y, (s.efc c).mul x y < 2 ^ (s.efc c).deg
            ∧ PolyDvd (s.efc c).poly (clmul x y ^^^ (s.efc c).mul x y))
        ∧ ((s.efc c).kind ≠ .poly →
            (∀ x y z, (s.efc c).mul x y < 2 ^ (s.efc c).deg
              ∧ (s.efc c).mul (x ^^^ y) z = (s.efc c).mul x z ^^^ (s.efc c).mul y z
              ∧ (s.efc c).mul x (y ^^^ z) = (s.efc c).mul x y ^^^ (s.efc c).mul x z)
            ∧ ∀ i j h, i < (s.efc c).deg → j < (s.efc c).deg → h < (s.efc c).deg →
                ((s.efc c).mul (2 ^ i) (2 ^ j)).testBit h = (s.efc c).basisProduct i j h))

/-- EF.SQR, EF.SQRT, EF.INV and EF.HTRACE: the errors in order, and otherwise at dst the square, the root, the inverse,
the half-trace and nothing else (R237, R238, R239, R241). -/
def Obligations.EfOneElementCommandsStoreTheirElement : Prop :=
  ∀ (s : State) (dst a : DReg) (c : Ctx) (alg : InvAlg) (E : ExtField) (x y : Nat) (i : Instr) (pre : List (Prop × ErrCode))
      (law : Prop), E = s.efc c → x = s.elem E a →
    (i = .efSqr dst a c ∧ pre = [] ∧ y = E.mul x x
        ∧ law = ((E.kind = .poly → PolyDvd E.poly (clmul x x ^^^ y))
            ∧ (E.kind ≠ .poly → ∀ k, k < E.deg → y.testBit k = x.testBit ((k + E.deg - 1) % E.deg))))
      ∨ (i = .efSqrt dst a c ∧ pre = [] ∧ y = repeatTimes (fun z => E.mul z z) (E.deg - 1) x
          ∧ law = (E.mul y y = x ∧ ∀ z, z < 2 ^ E.deg → E.mul z z = x → z = y))
      ∨ (i = .efInv dst a alg c ∧ pre = [(x ≠ 0, .invZero)] ∧ y = E.pow x (2 ^ E.deg - 2)
          ∧ law = (E.mul x y = E.one ∧ ∀ z, z < 2 ^ E.deg → E.mul x z = E.one → z = y))
      ∨ (i = .efHtrace dst a c ∧ pre = [(E.deg % 2 = 1, .degreeParity)]
          ∧ y = xorSum ((E.deg - 1) / 2 + 1) (fun j => repeatTimes (fun z => E.mul z z) (2 * j) x)
          ∧ law = (E.mul y y ^^^ y = x ^^^ xorSum E.deg (fun j => repeatTimes (fun z => E.mul z z) j x))) →
    E.ok s.params = true → (E.valid = true → E.kind = .poly → PolyIrreducible E.poly) →
    Outcome i s
      ([(E.valid = true, .fieldInvalid), (s.PolySource a, .bounds), (s.len a = E.deg, .dim), (s.inOm dst, .bounds)] ++ pre
        ++ [(wordsFor E.deg ≤ s.cap dst, .capacity)])
      (y < 2 ^ E.deg ∧ law ∧ StoresAt i s dst (wordsFor E.deg) (fun t => ElemResult s t E dst y))

/-- In an optimal normal basis the square of an element is the cyclic shift of its coordinates (43_ext_field.md R232,
R237). -/
def Obligations.NormalBasisSquareRotates : Prop :=
  ∀ (kind : Kind) (n id : Word) (x : Nat), kind ≠ .poly → 2 ≤ n.toNat → onbExists kind n.toNat = true → x < 2 ^ n.toNat →
    (onbContext kind n id).sqr x < 2 ^ n.toNat
      ∧ ∀ i, i < n.toNat → ((onbContext kind n id).sqr x).testBit i = x.testBit ((i + n.toNat - 1) % n.toNat)

/-- EF.SOLVEQ: the errors in order; 0, the half-trace, or one candidate of the search, its outcome and its limit; the z
stored solves z^2 + z = c (R242, R243, 10_state.md R38, R39). The model's choice, not the spec's, in part: log entries
5, 11. -/
def Obligations.EfSolveqSolvesOrSearches : Prop :=
  ∀ (s : State) (dst a : DReg) (c : Ctx) (E : ExtField) (x : Nat) (p : Nat × State),
    E = s.efc c → x = s.elem E a → p = s.drawElem E → E.ok s.params = true →
    (E.valid = true → E.kind = .poly → PolyIrreducible E.poly) →
    Outcome (.efSolveq dst a c) s
      [(E.valid = true, .fieldInvalid), (s.PolySource a, .bounds), (s.len a = E.deg, .dim), (s.inOm dst, .bounds),
       (E.trace x = 0, .noSolution)]
      ((x = 0 ∨ E.deg % 2 = 1 → ∀ z, z = (if x = 0 then 0 else E.halfTrace x) →
          Outcome (.efSolveq dst a c) s [(wordsFor E.deg ≤ s.cap dst, .capacity)]
            (z < 2 ^ E.deg ∧ E.mul z z ^^^ z = x
              ∧ StoresAt (.efSolveq dst a c) s dst (wordsFor E.deg) (fun t => ElemResult s t E dst z)))
        ∧ (x ≠ 0 → E.deg % 2 = 0 →
            (s.LimitReached → exec (.efSolveq dst a c) s = .next (s.latch .searchLimit s.candidates))
            ∧ (¬ s.LimitReached → (E.solveRounds x p.1 (E.deg - 1)).2 = 0 →
                exec (.efSolveq dst a c) s = .next { p.2 with candidates := s.candidates + 1 })
            ∧ (¬ s.LimitReached → (E.solveRounds x p.1 (E.deg - 1)).2 ≠ 0 → s.cap dst < wordsFor E.deg →
                exec (.efSolveq dst a c) s
                  = .next ({ p.2 with candidates := s.candidates + 1 }.latch .capacity (s.candidates + 1)))
            ∧ (¬ s.LimitReached → (E.solveRounds x p.1 (E.deg - 1)).2 ≠ 0 → wordsFor E.deg ≤ s.cap dst →
                ∀ z, z = (E.solveRounds x p.1 (E.deg - 1)).1 →
                z < 2 ^ E.deg ∧ E.mul z z ^^^ z = x
                  ∧ Completes (.efSolveq dst a c) s (fun t => ElemResult s t E dst z ∧ FieldsKept s t
                    ∧ Effect s t (s.candidates + 1) [] [dst] [(s.base dst, wordsFor E.deg)]))))

/-- EF.ROOT: the errors in order; one candidate, which succeeds exactly with a root of the other context's polynomial and
stores it (R271, R273, R243). The model's choice, not the spec's, in part: log entries 5, 6, 11. -/
def Obligations.EfRootStoresARoot : Prop :=
  ∀ (s : State) (dst : DReg) (c : Ctx) (A B : ExtField) (u : Nat × State) (r : Nat),
    B = s.efc c → A = s.efc (otherCtx c) → u = (s.drawElem B).2.takeAnswer → r = u.1 % 2 ^ B.deg →
    Outcome (.efRoot dst c) s
      [(B.valid = true, .fieldInvalid), (A.valid = true, .fieldInvalid), (s.inOm dst, .bounds), (B.n = A.n, .fieldMismatch)]
      ((s.LimitReached → exec (.efRoot dst c) s = .next (s.latch .searchLimit s.candidates))
        ∧ (¬ s.LimitReached → B.evalPoly A.poly r ≠ 0 →
            exec (.efRoot dst c) s = .next { u.2 with candidates := s.candidates + 1 })
        ∧ (¬ s.LimitReached → B.evalPoly A.poly r = 0 → s.cap dst < wordsFor B.deg →
            exec (.efRoot dst c) s = .next ({ u.2 with candidates := s.candidates + 1 }.latch .capacity (s.candidates + 1)))
        ∧ (¬ s.LimitReached → B.evalPoly A.poly r = 0 → wordsFor B.deg ≤ s.cap dst →
            Completes (.efRoot dst c) s (fun t =>
              ElemResult s t B dst r ∧ FieldsKept s t
                ∧ Effect s t (s.candidates + 1) [] [dst] [(s.base dst, wordsFor B.deg)])))

/-- EF.COB: the errors in order; one candidate, which with a root appends the forward entry and its inverse to the cache
(R270, R271, R272, R274). The model's choice, not the spec's, in part: log entries 5, 6, 11. -/
def Obligations.EfCobAppendsAPair : Prop :=
  ∀ (s : State) (c : Ctx) (A B : ExtField) (u : Nat × State) (r : Nat),
    A = s.efc c → B = s.efc (otherCtx c) → u = (s.drawElem B).2.takeAnswer → r = u.1 % 2 ^ B.deg →
    Outcome (.efCob c) s
      [(A.valid = true, .fieldInvalid), (B.valid = true, .fieldInvalid), (A.n = B.n, .fieldMismatch),
       (A.fieldId ≠ B.fieldId, .fieldMismatch), (s.cob.length + 2 ≤ s.params.cobEntries.toNat, .cacheFull)]
      ((s.LimitReached → exec (.efCob c) s = .next (s.latch .searchLimit s.candidates))
        ∧ (¬ s.LimitReached → B.evalPoly A.poly r ≠ 0 →
            exec (.efCob c) s = .next { u.2 with candidates := s.candidates + 1 })
        ∧ (¬ s.LimitReached → B.evalPoly A.poly r = 0 → Completes (.efCob c) s (fun t => ∃ fwd rev,
            t.cob = s.cob ++ [fwd, rev]
              ∧ fwd.srcId = A.fieldId ∧ fwd.dstId = B.fieldId ∧ fwd.n = A.deg ∧ fwd.rows.length = A.deg
              ∧ (∀ j, j < A.deg → rowAt fwd.rows j
                  = if A.kind = .poly then B.pow r j else repeatTimes (fun x => B.mul x x) j r)
              ∧ rev.srcId = B.fieldId ∧ rev.dstId = A.fieldId ∧ rev.n = A.deg
              ∧ (∀ m, matInv A.deg fwd.rows = some m → rev.rows = m)
              ∧ (A.ok s.params = true → B.ok s.params = true → (A.kind = .poly → PolyIrreducible A.poly) →
                  (B.kind = .poly → PolyIrreducible B.poly) →
                  matMul A.deg A.deg fwd.rows rev.rows = identity A.deg ∧ matMul A.deg A.deg rev.rows fwd.rows = identity A.deg)
              ∧ t.sf = s.sf ∧ t.efc0 = s.efc0 ∧ t.efc1 = s.efc1 ∧ Effect s t (s.candidates + 1) [] [] [])))

/-- EF.CONV without a search: the errors in order; a clone of the stored string for equal polynomials, or the product with
the first cached matrix (R270, R275, 10_state.md R47, 93_implementation_defined.md I11). The model's choice, not the
spec's, in part: log entry 10. -/
def Obligations.EfConvClonesOrUsesTheCache : Prop :=
  ∀ (s : State) (dst a : DReg) (c : Ctx) (A B : ExtField),
    A = s.efc c → B = s.efc (otherCtx c) → A.ok s.params = true → B.ok s.params = true →
    (∀ e ∈ s.cob, ∀ row ∈ e.rows, row < 2 ^ e.n) →
    Outcome (.efConv dst a c) s
      [(A.valid = true, .fieldInvalid), (B.valid = true, .fieldInvalid), (s.PolySource a, .bounds), (s.len a = A.deg, .dim),
       (s.inOm dst, .bounds)]
      ((A.poly = B.poly →
          Outcome (.efConv dst a c) s
            [((A.kind = .poly ↔ B.kind = .poly) ∨ s.params.acrossKinds = .clone, .fieldMismatch), (wordsFor B.deg ≤ s.cap dst, .capacity)]
            (StoresAt (.efConv dst a c) s dst (wordsFor B.deg) (fun t => PolyResult s t dst (s.poly a) B.deg)))
        ∧ (A.poly ≠ B.poly →
            Outcome (.efConv dst a c) s [(A.n = B.n, .fieldMismatch), (A.fieldId ≠ B.fieldId, .fieldMismatch)]
              (∀ pre e post, s.cob = pre ++ e :: post →
                (∀ e' ∈ pre, ¬ (e'.srcId = A.fieldId ∧ e'.dstId = B.fieldId)) →
                e.srcId = A.fieldId → e.dstId = B.fieldId →
                Outcome (.efConv dst a c) s [(e.n = A.deg, .fieldMismatch), (wordsFor B.deg ≤ s.cap dst, .capacity)]
                  (StoresAt (.efConv dst a c) s dst (wordsFor B.deg)
                    (fun t => ElemResult s t B dst
                      (xorSum B.deg (fun j => if (s.elem A a).testBit j then rowAt e.rows j else 0)))))))

/-- EF.CONV on a cache miss: CACHE_FULL, SEARCH_LIMIT, or one candidate, which with a root stores the converted element
and appends the pair of entries (R270, R271, R272, R275). The model's choice, not the spec's, in part: log entries 5,
6, 11. -/
def Obligations.EfConvSearchesAndCaches : Prop :=
  ∀ (s : State) (dst a : DReg) (c : Ctx) (A B : ExtField) (u : Nat × State) (r : Nat),
    A = s.efc c → B = s.efc (otherCtx c) → A.ok s.params = true → B.ok s.params = true → A.valid = true → B.valid = true →
    (A.kind = .poly → PolyIrreducible A.poly) → (B.kind = .poly → PolyIrreducible B.poly) →
    s.PolySource a → s.len a = A.deg → s.inOm dst → A.poly ≠ B.poly → A.n = B.n → A.fieldId ≠ B.fieldId →
    (∀ e ∈ s.cob, ¬ (e.srcId = A.fieldId ∧ e.dstId = B.fieldId)) →
    u = (s.drawElem B).2.takeAnswer → r = u.1 % 2 ^ B.deg →
    Outcome (.efConv dst a c) s [(s.cob.length + 2 ≤ s.params.cobEntries.toNat, .cacheFull)]
      ((s.LimitReached → exec (.efConv dst a c) s = .next (s.latch .searchLimit s.candidates))
        ∧ (¬ s.LimitReached → B.evalPoly A.poly r ≠ 0 →
            exec (.efConv dst a c) s = .next { u.2 with candidates := s.candidates + 1 })
        ∧ (¬ s.LimitReached → B.evalPoly A.poly r = 0 → s.cap dst < wordsFor B.deg →
            exec (.efConv dst a c) s
              = .next ({ u.2 with candidates := s.candidates + 1 }.latch .capacity (s.candidates + 1)))
        ∧ (¬ s.LimitReached → B.evalPoly A.poly r = 0 → wordsFor B.deg ≤ s.cap dst →
            Completes (.efConv dst a c) s (fun t => ∃ fwd rev,
              t.cob = s.cob ++ [fwd, rev]
                ∧ fwd.srcId = A.fieldId ∧ fwd.dstId = B.fieldId ∧ fwd.n = A.deg
                ∧ rev.srcId = B.fieldId ∧ rev.dstId = A.fieldId ∧ rev.n = A.deg
                ∧ (∀ j, j < A.deg → rowAt fwd.rows j
                    = if A.kind = .poly then B.pow r j else repeatTimes (fun x => B.mul x x) j r)
                ∧ matMul A.deg A.deg fwd.rows rev.rows = identity A.deg ∧ matMul A.deg A.deg rev.rows fwd.rows = identity A.deg
                ∧ ElemResult s t B dst
                    (xorSum B.deg (fun j => if (s.elem A a).testBit j then rowAt fwd.rows j else 0))
                ∧ t.sf = s.sf ∧ t.efc0 = s.efc0 ∧ t.efc1 = s.efc1
                ∧ Effect s t (s.candidates + 1) [] [dst] [(s.base dst, wordsFor B.deg)])))

/-- M2.MUL: the errors in order, and otherwise the matrix product over GF(2) at dst and nothing else (R301). -/
def Obligations.M2MulIsTheMatrixProduct : Prop :=
  ∀ (s : State) (dst a b : DReg),
    Outcome (.m2Mul dst a b) s
      [(s.Mat2Source a, .bounds), (s.HasCells a, .dim), (s.Mat2Source b, .bounds), (s.HasCells b, .dim),
       (s.inOm dst, .bounds), (s.cols a = s.rows b, .dim), (s.rows a * wordsFor (s.cols b) ≤ s.cap dst, .capacity)]
      (∃ m, Mat2Shape m (s.rows a) (s.cols b)
        ∧ (∀ i j, i < s.rows a → j < s.cols b →
            entry m i j = xorBits (s.cols a) (fun k => entry (s.mat2 a) i k && entry (s.mat2 b) k j))
        ∧ StoresAt (.m2Mul dst a b) s dst (s.rows a * wordsFor (s.cols b))
            (fun t => Mat2Result s t dst m (s.rows a) (s.cols b)))

/-- M2.VMUL and M2.MULV: the errors in order, and otherwise the row-vector and the column-vector product at dst and
nothing else (R302, R303). -/
def Obligations.M2VectorProducts : Prop :=
  ∀ (s : State) (dst v m : DReg),
    Outcome (.m2Vmul dst v m) s
      [(s.PolySource v, .bounds), (s.Mat2Source m, .bounds), (s.HasCells m, .dim), (s.inOm dst, .bounds),
       (s.len v = s.rows m, .dim), (wordsFor (s.cols m) ≤ s.cap dst, .capacity)]
      (∃ y, y < 2 ^ s.cols m
        ∧ (∀ j, j < s.cols m → y.testBit j = xorBits (s.rows m) (fun k => (s.poly v).testBit k && entry (s.mat2 m) k j))
        ∧ StoresAt (.m2Vmul dst v m) s dst (wordsFor (s.cols m)) (fun t => PolyResult s t dst y (s.cols m)))
    ∧ Outcome (.m2Mulv dst m v) s
      [(s.Mat2Source m, .bounds), (s.HasCells m, .dim), (s.PolySource v, .bounds), (s.inOm dst, .bounds),
       (s.len v = s.cols m, .dim), (wordsFor (s.rows m) ≤ s.cap dst, .capacity)]
      (∃ y, y < 2 ^ s.rows m
        ∧ (∀ i, i < s.rows m → y.testBit i = xorBits (s.cols m) (fun k => entry (s.mat2 m) i k && (s.poly v).testBit k))
        ∧ StoresAt (.m2Mulv dst m v) s dst (wordsFor (s.rows m)) (fun t => PolyResult s t dst y (s.rows m)))

/-- M2.INV: the errors in order, SINGULAR exactly where no inverse exists, and otherwise the inverse at dst and nothing
else (R304). -/
def Obligations.M2InvIsTheTwoSidedInverse : Prop :=
  ∀ (s : State) (dst a : DReg),
    Outcome (.m2Inv dst a) s
      [(s.Mat2Source a, .bounds), (s.HasCells a, .dim), (s.inOm dst, .bounds), (s.rows a = s.cols a, .dim),
       (∃ b, matMul (s.rows a) (s.rows a) (s.mat2 a) b = identity (s.rows a), .singular),
       (s.rows a * wordsFor (s.rows a) ≤ s.cap dst, .capacity)]
      (∃ m, Mat2Shape m (s.rows a) (s.rows a)
        ∧ matMul (s.rows a) (s.rows a) (s.mat2 a) m = identity (s.rows a)
        ∧ matMul (s.rows a) (s.rows a) m (s.mat2 a) = identity (s.rows a)
        ∧ StoresAt (.m2Inv dst a) s dst (s.rows a * wordsFor (s.rows a))
            (fun t => Mat2Result s t dst m (s.rows a) (s.rows a)))

/-- M2.TRN: the transpose at dst; M2.ISZ: 1 exactly where every entry is 0; their errors in order and nothing else (R305,
R306). -/
def Obligations.M2TrnAndM2IszReadEveryEntry : Prop :=
  ∀ (s : State) (dst a : DReg) (r : SReg),
    Outcome (.m2Trn dst a) s
      [(s.Mat2Source a, .bounds), (s.HasCells a, .dim), (s.inOm dst, .bounds),
       (s.cols a * wordsFor (s.rows a) ≤ s.cap dst, .capacity)]
      (∃ m, Mat2Shape m (s.cols a) (s.rows a)
        ∧ (∀ i j, i < s.rows a → j < s.cols a → entry m j i = entry (s.mat2 a) i j)
        ∧ StoresAt (.m2Trn dst a) s dst (s.cols a * wordsFor (s.rows a))
            (fun t => Mat2Result s t dst m (s.cols a) (s.rows a)))
    ∧ Outcome (.m2Isz r a) s [(s.Mat2Source a, .bounds), (s.HasCells a, .dim)]
      (((∀ i j, i < s.rows a → j < s.cols a →
            (s.readNat (s.base a + i * wordsFor (s.cols a)) (wordsFor (s.cols a))).testBit j = false) →
          WritesScalar (.m2Isz r a) s r 1)
        ∧ (∀ i j, i < s.rows a → j < s.cols a →
            (s.readNat (s.base a + i * wordsFor (s.cols a)) (wordsFor (s.cols a))).testBit j = true →
          WritesScalar (.m2Isz r a) s r 0))

/-- M2.DEC: the errors in order, and otherwise the matrix of the image at dst and nothing else (R307). -/
def Obligations.M2DecReadsTheImage : Prop :=
  ∀ (s : State) (dst img : DReg) (byte : Nat → Nat) (r c bpr : Nat),
    byte = s.imageByte (s.base img) →
    r = byte 0 + 2 ^ 8 * byte 1 + 2 ^ 16 * byte 2 + 2 ^ 24 * byte 3 →
    c = byte 4 + 2 ^ 8 * byte 5 + 2 ^ 16 * byte 6 + 2 ^ 24 * byte 7 → bpr = (c + 7) / 8 →
    Outcome (.m2Dec dst img) s
      [(s.ImageSource img, .bounds), (s.inOm dst, .bounds), (8 ≤ s.len img, .malformedEncoding),
       (1 ≤ r ∧ r < 2 ^ 31 ∧ 1 ≤ c ∧ c < 2 ^ 31, .malformedEncoding), (s.len img = 8 + r * bpr, .malformedEncoding),
       (∀ i j, i < r → c ≤ j → j < 8 * bpr → (byte (8 + i * bpr + j / 8)).testBit (j % 8) = false, .malformedEncoding),
       (r * wordsFor c ≤ s.cap dst, .capacity)]
      (∃ m, Mat2Shape m r c
        ∧ (∀ i j, i < r → j < c → entry m i j = (byte (8 + i * bpr + j / 8)).testBit (j % 8))
        ∧ StoresAt (.m2Dec dst img) s dst (r * wordsFor c) (fun t => Mat2Result s t dst m r c))

/-- M2.ENC: the errors in order, and otherwise the byte image of the matrix at img and nothing else (R308). -/
def Obligations.M2EncWritesTheImage : Prop :=
  ∀ (s : State) (img a : DReg), s.params.legal = true →
    Outcome (.m2Enc img a) s
      [(s.Mat2Source a, .bounds), (s.HasCells a, .dim), (s.inOm img, .bounds),
       (imageWords (8 + s.rows a * ((s.cols a + 7) / 8)) ≤ s.cap img, .capacity)]
      (∃ bytes : List Nat, bytes.length = 8 + s.rows a * ((s.cols a + 7) / 8)
        ∧ (∀ k, k < 4 → bytes.getD k 0 = s.rows a / 2 ^ (8 * k) % 256
            ∧ bytes.getD (4 + k) 0 = s.cols a / 2 ^ (8 * k) % 256)
        ∧ (∀ i b, i < s.rows a → b < (s.cols a + 7) / 8 →
            bytes.getD (8 + i * ((s.cols a + 7) / 8) + b) 0 = rowAt (s.mat2 a) i / 2 ^ (8 * b) % 256)
        ∧ StoresAt (.m2Enc img a) s img (imageWords (8 + s.rows a * ((s.cols a + 7) / 8)))
            (fun t => ImageResult s t img bytes))

/-- M2M.INV: the errors in order, SINGULAR exactly where no inverse exists, and otherwise the two-sided inverse at dst and
nothing else (46_gf2m_matrix.md R330, R331). -/
def Obligations.M2mInvByRowReduction : Prop :=
  ∀ (s : State) (dst a : DReg), s.sf.ok = true → (s.sf.valid = true → PolyIrreducible s.sf.poly.toNat) →
    Outcome (.m2mInv dst a) s
      [(s.sf.valid = true, .fieldInvalid), (s.MatMSource a, .bounds), (s.HasCells a, .dim), (s.inOm dst, .bounds),
       (s.rows a = s.cols a, .dim), (s.Elements (s.matCells a), .illegalElem),
       (∃ b, s.sf.RightInverse (s.rows a) (s.matM a) b, .singular), (s.rows a * s.rows a ≤ s.cap dst, .capacity)]
      (∃ m, s.sf.RightInverse (s.rows a) (s.matM a) m
        ∧ (∀ i j, i < s.rows a → j < s.rows a → s.sf.prodCell (s.rows a) m (s.matM a) i j = if i = j then 1 else 0)
        ∧ StoresAt (.m2mInv dst a) s dst (s.rows a * s.rows a) (fun t => MatMResult s t dst m (s.rows a) (s.rows a)))

/-- The four small-field matrix products end with NOT_IMPLEMENTED, whatever the operands and the context (R332). -/
def Obligations.M2mProductsAreNotImplemented : Prop :=
  ∀ (s : State) (dst a b : DReg) (i : Instr),
    i = .m2mRmulm dst a b ∨ i = .m2mRmulv dst a b ∨ i = .m2mLmulv dst a b ∨ i = .m2mLmulm dst a b →
    Completes i s (fun t => t.phase = .idle ∧ t.status = { s.status with done := true, err := true, errcode := 0x14 }
      ∧ t.errcmd = s.cmd ∧ t.itercnt = 0 ∧ OperandsKept s t ∧ t.cmd = s.cmd ∧ t.cmdseq = s.cmdseq ∧ t.ie = s.ie
      ∧ t.itercap = s.itercap)

/-- M2M.DEC: the errors in order, and otherwise the matrix of the image at dst and nothing else (R333). -/
def Obligations.M2mDecReadsTheImage : Prop :=
  ∀ (s : State) (dst img : DReg) (byte : Nat → Nat) (cell : Nat → Nat → Nat) (r c cb : Nat), s.sf.ok = true →
    byte = s.imageByte (s.base img) → cb = (s.sf.m.toNat + 7) / 8 →
    r = byte 0 + 2 ^ 8 * byte 1 + 2 ^ 16 * byte 2 + 2 ^ 24 * byte 3 → c = (s.len img - 4) / (r * cb) →
    (∀ i j, cell i j = ((List.range cb).map (fun q => byte (4 + (i * c + j) * cb + q) * 2 ^ (8 * q))).sum) →
    Outcome (.m2mDec dst img) s
      [(s.sf.valid = true, .fieldInvalid), (s.ImageSource img, .bounds), (s.inOm dst, .bounds),
       (4 ≤ s.len img, .malformedEncoding), (1 ≤ r ∧ r < 2 ^ 31, .malformedEncoding),
       ((s.len img - 4) % (r * cb) = 0 ∧ r * cb ≤ s.len img - 4, .malformedEncoding),
       (∀ i j, i < r → j < c → cell i j < 2 ^ s.sf.m.toNat, .illegalElem), (r * c ≤ s.cap dst, .capacity)]
      (∃ m, (∀ i j, i < r → j < c → cellAt m i j = cell i j)
        ∧ StoresAt (.m2mDec dst img) s dst (r * c) (fun t => MatMResult s t dst m r c))

/-- M2M.ENC: the errors in order, and otherwise the byte image of the matrix at img and nothing else (R334). -/
def Obligations.M2mEncWritesTheImage : Prop :=
  ∀ (s : State) (img a : DReg) (cb : Nat), s.params.legal = true → s.sf.ok = true → cb = (s.sf.m.toNat + 7) / 8 →
    Outcome (.m2mEnc img a) s
      [(s.sf.valid = true, .fieldInvalid), (s.MatMSource a, .bounds), (s.HasCells a, .dim), (s.inOm img, .bounds),
       (s.Elements (s.matCells a), .illegalElem),
       (imageWords (4 + s.rows a * s.cols a * cb) ≤ s.cap img, .capacity)]
      (∃ bytes : List Nat, bytes.length = 4 + s.rows a * s.cols a * cb
        ∧ (∀ k, k < 4 → bytes.getD k 0 = s.rows a / 2 ^ (8 * k) % 256)
        ∧ (∀ i j q, i < s.rows a → j < s.cols a → q < cb →
            bytes.getD (4 + (i * s.cols a + j) * cb + q) 0
              = (s.readWord (s.base a + i * s.cols a + j)).toNat / 2 ^ (8 * q) % 256)
        ∧ StoresAt (.m2mEnc img a) s img (imageWords (4 + s.rows a * s.cols a * cb))
            (fun t => ImageResult s t img bytes))

/-- GP.ADD, GP.SMUL and GP.MUL: the errors in order, and otherwise the polynomial of the rule's coefficients at dst in
normal form and nothing else (R351, R352, R353). -/
def Obligations.GpSumsAndProductsByCoefficient : Prop :=
  ∀ (s : State) (dst a b : DReg) (e : SReg), s.sf.ok = true →
    Outcome (.gpAdd dst a b) s
      [(s.sf.valid = true, .fieldInvalid), (s.GoppaSource a, .bounds), (s.GoppaSource b, .bounds), (s.inOm dst, .bounds),
       (s.Elements (s.coeffs a), .illegalElem), (s.Elements (s.coeffs b), .illegalElem)]
      (∃ c, GpNormal c ∧ (∀ k, c.getD k 0 = (s.coeffs a).getD k 0 ^^^ (s.coeffs b).getD k 0)
        ∧ Outcome (.gpAdd dst a b) s [(goppaLen c ≤ s.cap dst, .capacity)]
            (StoresAt (.gpAdd dst a b) s dst (goppaLen c) (fun t => GoppaResult s t dst c)))
    ∧ Outcome (.gpMul dst a b) s
      [(s.sf.valid = true, .fieldInvalid), (s.GoppaSource a, .bounds), (s.GoppaSource b, .bounds), (s.inOm dst, .bounds),
       (s.Elements (s.coeffs a), .illegalElem), (s.Elements (s.coeffs b), .illegalElem)]
      (∃ c, GpNormal c ∧ (∀ k, c.getD k 0 = gpProductCoeff s.sf (s.coeffs a) (s.coeffs b) k)
        ∧ Outcome (.gpMul dst a b) s [(goppaLen c ≤ s.cap dst, .capacity)]
            (StoresAt (.gpMul dst a b) s dst (goppaLen c) (fun t => GoppaResult s t dst c)))
    ∧ Outcome (.gpSmul dst a e) s
      [(s.sf.valid = true, .fieldInvalid), (s.GoppaSource a, .bounds), (s.inOm dst, .bounds), (s.Elements (s.coeffs a), .illegalElem),
       (s.ScalarElem e, .illegalElem)]
      (∃ c, GpNormal c ∧ (∀ k, c.getD k 0 = s.sf.mul (s.S e).toNat ((s.coeffs a).getD k 0))
        ∧ Outcome (.gpSmul dst a e) s [(goppaLen c ≤ s.cap dst, .capacity)]
            (StoresAt (.gpSmul dst a e) s dst (goppaLen c) (fun t => GoppaResult s t dst c)))

/-- GP.DIV and GP.MOD: the errors in order, and otherwise the Q and R with A = Q·B + R and deg(R) < deg(B) (R354, R355). -/
def Obligations.GpDivAndGpModDivideExactly : Prop :=
  ∀ (s : State) (quot a b rem : DReg), s.sf.ok = true → (s.sf.valid = true → PolyIrreducible s.sf.poly.toNat) →
    Outcome (.gpDiv quot a b rem) s
      [(s.sf.valid = true, .fieldInvalid), (s.GoppaSource a, .bounds), (s.GoppaSource b, .bounds), (s.inOm quot, .bounds),
       (s.inOm rem, .bounds), (s.Elements (s.coeffs a), .illegalElem), (s.Elements (s.coeffs b), .illegalElem),
       (s.goppa b ≠ [], .divZero)]
      (∃ q r, GpPoly s.sf q ∧ GpPoly s.sf r ∧ r.length < (s.goppa b).length
        ∧ (∀ k, (s.coeffs a).getD k 0 = gpProductCoeff s.sf q (s.coeffs b) k ^^^ r.getD k 0)
        ∧ Outcome (.gpDiv quot a b rem) s
            [(goppaLen q ≤ s.cap quot, .capacity), (goppaLen r ≤ s.cap rem, .capacity),
             (s.Apart quot rem (goppaLen q) (goppaLen r), .dstOverlap)]
            (Completes (.gpDiv quot a b rem) s (fun t =>
              GoppaResult s t quot q ∧ GoppaResult s t rem r
                ∧ Effect s t 0 [] [quot, rem] [(s.base quot, goppaLen q), (s.base rem, goppaLen r)] ∧ FieldsKept s t)))
    ∧ Outcome (.gpMod rem a b) s
      [(s.sf.valid = true, .fieldInvalid), (s.GoppaSource a, .bounds), (s.GoppaSource b, .bounds), (s.inOm rem, .bounds),
       (s.Elements (s.coeffs a), .illegalElem), (s.Elements (s.coeffs b), .illegalElem), (s.goppa b ≠ [], .divZero)]
      (∃ q r, GpPoly s.sf q ∧ GpPoly s.sf r ∧ r.length < (s.goppa b).length
        ∧ (∀ k, (s.coeffs a).getD k 0 = gpProductCoeff s.sf q (s.coeffs b) k ^^^ r.getD k 0)
        ∧ Outcome (.gpMod rem a b) s [(goppaLen r ≤ s.cap rem, .capacity)]
            (StoresAt (.gpMod rem a b) s rem (goppaLen r) (fun t => GoppaResult s t rem r)))

/-- GP.GCD, GP.MMUL, GP.MINV and GP.MDIV: the errors in order, and otherwise the monic gcd, the product, the inverse or
the quotient modulo G at dst (47_goppa.md R350, R356, R357, R358, R359, R366). -/
def Obligations.GpGcdAndModularCommandsStoreTheirPolynomial : Prop :=
  ∀ (s : State) (dst a b g : DReg), s.sf.ok = true → (s.sf.valid = true → PolyIrreducible s.sf.poly.toNat) →
    Outcome (.gpGcd dst a b) s
      [(s.sf.valid = true, .fieldInvalid), (s.GoppaSource a, .bounds), (s.GoppaSource b, .bounds), (s.inOm dst, .bounds),
       (s.Elements (s.coeffs a), .illegalElem), (s.Elements (s.coeffs b), .illegalElem),
       (s.goppa a ≠ [] ∨ s.goppa b ≠ [], .gcdZero)]
      (∃ d, GpPoly s.sf d ∧ gpLead d = 1 ∧ GpDvd s.sf d (s.goppa a) ∧ GpDvd s.sf d (s.goppa b)
        ∧ (∀ e, GpPoly s.sf e → GpDvd s.sf e (s.goppa a) → GpDvd s.sf e (s.goppa b) → GpDvd s.sf e d)
        ∧ Outcome (.gpGcd dst a b) s [(goppaLen d ≤ s.cap dst, .capacity)]
            (StoresAt (.gpGcd dst a b) s dst (goppaLen d) (fun t => GoppaResult s t dst d)))
    ∧ Outcome (.gpMmul dst a b g) s
      [(s.sf.valid = true, .fieldInvalid), (s.GoppaSource a, .bounds), (s.GoppaSource b, .bounds),
       (s.GoppaSource g, .bounds), (s.inOm dst, .bounds), (s.Elements (s.coeffs a), .illegalElem),
       (s.Elements (s.coeffs b), .illegalElem), (s.Elements (s.coeffs g), .illegalElem), (s.goppa g ≠ [], .divZero),
       (2 ≤ (s.goppa g).length, .illegalParam)]
      (∃ r, GpPoly s.sf r ∧ r.length < (s.goppa g).length
        ∧ GpModEq s.sf (s.goppa g) (gpProductCoeff s.sf (s.goppa a) (s.goppa b)) (fun k => r.getD k 0)
        ∧ Outcome (.gpMmul dst a b g) s [(goppaLen r ≤ s.cap dst, .capacity)]
            (StoresAt (.gpMmul dst a b g) s dst (goppaLen r) (fun t => GoppaResult s t dst r)))
    ∧ Outcome (.gpMinv dst a b) s
      [(s.sf.valid = true, .fieldInvalid), (s.GoppaSource a, .bounds), (s.GoppaSource b, .bounds), (s.inOm dst, .bounds),
       (s.Elements (s.coeffs a), .illegalElem), (s.Elements (s.coeffs b), .illegalElem),
       (s.goppa b ≠ [], .divZero), (2 ≤ (s.goppa b).length, .illegalParam),
       (GpCoprime s.sf (s.goppa a) (s.goppa b), .notInvertible)]
      (∃ u, GpPoly s.sf u ∧ u.length < (s.goppa b).length
        ∧ GpModEq s.sf (s.goppa b) (gpProductCoeff s.sf (s.goppa a) u) (fun k => if k = 0 then 1 else 0)
        ∧ Outcome (.gpMinv dst a b) s [(goppaLen u ≤ s.cap dst, .capacity)]
            (StoresAt (.gpMinv dst a b) s dst (goppaLen u) (fun t => GoppaResult s t dst u)))
    ∧ Outcome (.gpMdiv dst a b g) s
      [(s.sf.valid = true, .fieldInvalid), (s.GoppaSource a, .bounds), (s.GoppaSource b, .bounds),
       (s.GoppaSource g, .bounds), (s.inOm dst, .bounds), (s.Elements (s.coeffs a), .illegalElem),
       (s.Elements (s.coeffs b), .illegalElem), (s.Elements (s.coeffs g), .illegalElem), (s.goppa g ≠ [], .divZero),
       (2 ≤ (s.goppa g).length, .illegalParam), (GpCoprime s.sf (s.goppa b) (s.goppa g), .notInvertible)]
      (∃ u r, GpPoly s.sf u ∧ u.length < (s.goppa g).length ∧ GpPoly s.sf r ∧ r.length < (s.goppa g).length
        ∧ GpModEq s.sf (s.goppa g) (gpProductCoeff s.sf (s.goppa b) u) (fun k => if k = 0 then 1 else 0)
        ∧ GpModEq s.sf (s.goppa g) (gpProductCoeff s.sf (s.goppa a) u) (fun k => r.getD k 0)
        ∧ Outcome (.gpMdiv dst a b g) s [(goppaLen r ≤ s.cap dst, .capacity)]
            (StoresAt (.gpMdiv dst a b g) s dst (goppaLen r) (fun t => GoppaResult s t dst r)))

/-- GP.SQM and GP.SQRTM: the errors in order, and otherwise the polynomial the map formula gives at dst and nothing else
(R360, R361, 20_memory.md R91, 93_implementation_defined.md I13). The model's choice, not the spec's, in part: log
entry 10. -/
def Obligations.GpMapsByTheirFormula : Prop :=
  ∀ (s : State) (dst a map : DReg) (M : Nat → Nat → Nat), s.sf.ok = true →
    (s.params.mapOrient = .rowIsOutput → ∀ i j, M i j = (s.readWord (s.base map + i * s.rows map + j)).toNat) →
    (s.params.mapOrient = .rowIsInput → ∀ i j, M i j = (s.readWord (s.base map + j * s.rows map + i)).toNat) →
    ∀ i : Instr, ∀ coeff : Nat → Nat,
    (i = .gpSqm dst a map ∧ coeff = fun k => xorSum (s.rows map) (fun j =>
        s.sf.mul (M k j) (s.sf.mul ((s.coeffs a).getD j 0) ((s.coeffs a).getD j 0))))
      ∨ (i = .gpSqrtm dst a map ∧ coeff = fun k => repeatTimes (fun y => s.sf.mul y y) (s.sf.m.toNat - 1)
          (xorSum (s.rows map) (fun j => s.sf.mul (M k j) ((s.coeffs a).getD j 0)))) →
    Outcome i s
      [(s.sf.valid = true, .fieldInvalid), (s.GoppaSource a, .bounds), (s.MatMSource map, .bounds), (s.inOm dst, .bounds),
       (1 ≤ s.rows map ∧ s.rows map = s.cols map, .dim), (s.Elements (s.coeffs a), .illegalElem),
       (s.Elements (s.matCells map), .illegalElem), ((s.goppa a).length ≤ s.rows map, .dim)]
      (∃ c, GpNormal c ∧ c.length ≤ s.rows map ∧ (∀ k, k < s.rows map → c.getD k 0 = coeff k)
        ∧ Outcome i s [(goppaLen c ≤ s.cap dst, .capacity)]
            (StoresAt i s dst (goppaLen c) (fun t => GoppaResult s t dst c)))

/-- GP.IRR and GP.DEG: the errors in order, and otherwise the test bit or the degree at dst and nothing else (R362, R363,
93_implementation_defined.md I9). The model's choice, not the spec's, in part: log entry 10. -/
def Obligations.GpIrrAndGpDegWriteTheirScalar : Prop :=
  ∀ (s : State) (dst : SReg) (a : DReg),
    Outcome (.gpIrr dst a) s
      [(s.sf.valid = true, .fieldInvalid), (s.GoppaSource a, .bounds), (s.Elements (s.coeffs a), .illegalElem)]
      (WritesScalar (.gpIrr dst a) s dst (if gpIrreducible s.params.irrConst s.sf (s.goppa a) = true then 1 else 0)
        ∧ gpIrreducible s.params.irrConst s.sf [] = false
        ∧ (∀ x, gpIrreducible s.params.irrConst s.sf [x] = s.params.irrConst)
        ∧ (∀ x y, gpIrreducible s.params.irrConst s.sf [x, y] = true)
        ∧ (s.sf.ok = true → PolyIrreducible s.sf.poly.toNat → 2 ≤ (s.goppa a).length →
            (gpIrreducible s.params.irrConst s.sf (s.goppa a) = true ↔ GpIrreducible s.sf (s.goppa a))))
    ∧ Outcome (.gpDeg dst a) s
      [(s.sf.valid = true, .fieldInvalid), (s.GoppaSource a, .bounds), (s.Elements (s.coeffs a), .illegalElem)]
      (((∀ k, (s.coeffs a).getD k 0 = 0) → WritesScalar (.gpDeg dst a) s dst 0xFFFFFFFF)
        ∧ (∀ n, (s.coeffs a).getD n 0 ≠ 0 → (∀ k, n < k → (s.coeffs a).getD k 0 = 0) →
            WritesScalar (.gpDeg dst a) s dst (BitVec.ofNat 32 n)))

/-- GP.MONO and GP.ADDM: the errors in order, and otherwise A·x^k or A + x^k at dst in normal form and nothing else (R364,
R365). -/
def Obligations.GpMonomialCommandsShiftOrFlip : Prop :=
  ∀ (s : State) (dst a : DReg) (k : SReg), s.sf.ok = true →
    Outcome (.gpMono dst a k) s
      [(s.sf.valid = true, .fieldInvalid), (s.GoppaSource a, .bounds), (s.inOm dst, .bounds), (s.Elements (s.coeffs a), .illegalElem)]
      (∃ c, GpNormal c ∧ (∀ i, c.getD i 0 = if i < (s.S k).toNat then 0 else (s.coeffs a).getD (i - (s.S k).toNat) 0)
        ∧ Outcome (.gpMono dst a k) s [(goppaLen c ≤ s.cap dst, .capacity)]
            (StoresAt (.gpMono dst a k) s dst (goppaLen c) (fun t => GoppaResult s t dst c)))
    ∧ Outcome (.gpAddm dst a k) s
      [(s.sf.valid = true, .fieldInvalid), (s.GoppaSource a, .bounds), (s.inOm dst, .bounds), (s.Elements (s.coeffs a), .illegalElem)]
      (∃ c, GpNormal c ∧ (∀ i, c.getD i 0 = (s.coeffs a).getD i 0 ^^^ (if i = (s.S k).toNat then 1 else 0))
        ∧ Outcome (.gpAddm dst a k) s [(goppaLen c ≤ s.cap dst, .capacity)]
            (StoresAt (.gpAddm dst a k) s dst (goppaLen c) (fun t => GoppaResult s t dst c)))

end Statements
end

