-- ==== Sys2Proof/Laws/Encoding.lean ====
section
/-! SUPPORT. The fields of a packed command word: each field of 30_encoding R110 reads back as it was packed (R119). -/

namespace Sys2Proof

variable (opc : BitVec 8) (f1 f2 f3 f4 : Fin 8) (alg : Fin 4) (ctx : Ctx)

/-- A small number as a word, from its own bits. -/
theorem ofNat_fin8 (f : Fin 8) : BitVec.ofNat 32 f.val = (BitVec.ofFin f : BitVec 3).setWidth 32 := by
  apply BitVec.eq_of_toNat_eq
  have h := f.isLt
  simp [BitVec.toNat_ofFin]

theorem ofNat_fin4 (f : Fin 4) : BitVec.ofNat 32 f.val = (BitVec.ofFin f : BitVec 2).setWidth 32 := by
  apply BitVec.eq_of_toNat_eq
  have h := f.isLt
  simp [BitVec.toNat_ofFin]

theorem ofNat_fin2 (f : Fin 2) : BitVec.ofNat 32 f.val = (BitVec.ofFin f : BitVec 1).setWidth 32 := by
  apply BitVec.eq_of_toNat_eq
  have h := f.isLt
  simp [BitVec.toNat_ofFin]

/-- A packed word, each field from its own bits. -/
theorem pack_eq : pack opc f1 f2 f3 f4 alg ctx =
    opc.setWidth 32 ||| ((BitVec.ofFin f1 : BitVec 3).setWidth 32 <<< 8) ||| ((BitVec.ofFin f2 : BitVec 3).setWidth 32 <<< 11)
      ||| ((BitVec.ofFin f3 : BitVec 3).setWidth 32 <<< 14) ||| ((BitVec.ofFin f4 : BitVec 3).setWidth 32 <<< 17)
      ||| ((BitVec.ofFin alg : BitVec 2).setWidth 32 <<< 23) ||| ((BitVec.ofFin ctx.code : BitVec 1).setWidth 32 <<< 25) := by
  simp only [pack, ofNat_fin8, ofNat_fin4, ofNat_fin2]

@[simp] theorem opcOf_pack : opcOf (pack opc f1 f2 f3 f4 alg ctx) = opc.toNat := by
  have h : (pack opc f1 f2 f3 f4 alg ctx).extractLsb' 0 8 = opc := by
    rw [pack_eq]
    apply BitVec.eq_of_getLsbD_eq
    intro i hi
    interval_cases i <;> simp
  rw [opcOf, h]

@[simp] theorem f1Of_pack : f1Of (pack opc f1 f2 f3 f4 alg ctx) = f1 := by
  have h : (pack opc f1 f2 f3 f4 alg ctx).extractLsb' 8 3 = BitVec.ofFin f1 := by
    rw [pack_eq]
    apply BitVec.eq_of_getLsbD_eq
    intro i hi
    interval_cases i <;> simp
  rw [f1Of, h]

@[simp] theorem f2Of_pack : f2Of (pack opc f1 f2 f3 f4 alg ctx) = f2 := by
  have h : (pack opc f1 f2 f3 f4 alg ctx).extractLsb' 11 3 = BitVec.ofFin f2 := by
    rw [pack_eq]
    apply BitVec.eq_of_getLsbD_eq
    intro i hi
    interval_cases i <;> simp
  rw [f2Of, h]

@[simp] theorem f3Of_pack : f3Of (pack opc f1 f2 f3 f4 alg ctx) = f3 := by
  have h : (pack opc f1 f2 f3 f4 alg ctx).extractLsb' 14 3 = BitVec.ofFin f3 := by
    rw [pack_eq]
    apply BitVec.eq_of_getLsbD_eq
    intro i hi
    interval_cases i <;> simp
  rw [f3Of, h]

@[simp] theorem f4Of_pack : f4Of (pack opc f1 f2 f3 f4 alg ctx) = f4 := by
  have h : (pack opc f1 f2 f3 f4 alg ctx).extractLsb' 17 3 = BitVec.ofFin f4 := by
    rw [pack_eq]
    apply BitVec.eq_of_getLsbD_eq
    intro i hi
    interval_cases i <;> simp
  rw [f4Of, h]

@[simp] theorem f5Of_pack : f5Of (pack opc f1 f2 f3 f4 alg ctx) = 0 := by
  have h : (pack opc f1 f2 f3 f4 alg ctx).extractLsb' 20 3 = 0 := by
    rw [pack_eq]
    apply BitVec.eq_of_getLsbD_eq
    intro i hi
    interval_cases i <;> simp
  rw [f5Of, h]
  rfl

@[simp] theorem algOf_pack : algOf (pack opc f1 f2 f3 f4 alg ctx) = alg := by
  have h : (pack opc f1 f2 f3 f4 alg ctx).extractLsb' 23 2 = BitVec.ofFin alg := by
    rw [pack_eq]
    apply BitVec.eq_of_getLsbD_eq
    intro i hi
    interval_cases i <;> simp
  rw [algOf, h]

@[simp] theorem ctxOf_pack : ctxOf (pack opc f1 f2 f3 f4 alg ctx) = ctx := by
  have h : (pack opc f1 f2 f3 f4 alg ctx).getLsbD 25 = (BitVec.ofFin ctx.code : BitVec 1).getLsbD 0 := by
    rw [pack_eq]
    simp
  rw [ctxOf, h]
  cases ctx <;> rfl

@[simp] theorem rsvOf_pack : rsvOf (pack opc f1 f2 f3 f4 alg ctx) = 0 := by
  have h : (pack opc f1 f2 f3 f4 alg ctx).extractLsb' 26 6 = 0 := by
    rw [pack_eq]
    apply BitVec.eq_of_getLsbD_eq
    intro i hi
    interval_cases i <;> simp
  rw [rsvOf, h]
  rfl

@[simp] theorem sqrAlgOf_pack (a : SqrAlg) : sqrAlgOf (pack opc f1 f2 f3 f4 a.code ctx) = some a := by
  cases a <;> simp [sqrAlgOf, SqrAlg.code]

@[simp] theorem invAlgOf_pack (a : InvAlg) : invAlgOf (pack opc f1 f2 f3 f4 a.code ctx) = some a := by
  cases a <;> simp [invAlgOf, InvAlg.code]

end Sys2Proof
end

