-- ==== Sys2Proof/Laws/Goppa.lean ====
section
/-! SUPPORT. The leading coefficient of a product of polynomials over the small field, and that a polynomial of degree 0 has no
factor of a higher degree. -/

namespace Sys2Proof.Machine

/-- A sum over GF(2) with one term that is not 0. -/
theorem xorSum_single {n i : Nat} {g : Nat → Nat} (hi : i < n) (h : ∀ j, j < n → j ≠ i → g j = 0) : xorSum n g = g i := by
  induction n with
  | zero => omega
  | succ n ih =>
    by_cases hn : i = n
    · subst hn
      have hz : ∀ m, m ≤ i → xorSum m g = 0 := by
        intro m hm
        induction m with
        | zero => rfl
        | succ m ihm => rw [xorSum, ihm (by omega), h m (by omega) (by omega)]; rfl
      rw [xorSum, hz i (Nat.le_refl i), Nat.zero_xor]
    · rw [xorSum, ih (by omega) (fun j hj hne => h j (by omega) hne), h n (by omega) (Ne.symm hn), Nat.xor_zero]

/-- The coefficient of a product at the sum of the degrees is the product of the leading coefficients. -/
theorem gpProductCoeff_lead {F : SmallField} (h0 : ∀ x, F.mul 0 x = 0 ∧ F.mul x 0 = 0) {q d : List Nat} (hq : q ≠ [])
    (hd : d ≠ []) : gpProductCoeff F q d ((q.length - 1) + (d.length - 1)) = F.mul (gpLead q) (gpLead d) := by
  have hq' := List.length_pos_of_ne_nil hq
  have hd' := List.length_pos_of_ne_nil hd
  unfold gpProductCoeff
  rw [xorSum_single (i := q.length - 1) (by omega)]
  · rw [Nat.add_sub_cancel_left]
    rfl
  · intro j hj hne
    by_cases hlt : j < q.length - 1
    · rw [List.getD_eq_default d 0 (by omega), (h0 _).2]
    · rw [List.getD_eq_default q 0 (by omega), (h0 _).1]

/-- The leading coefficient of a polynomial in normal form is not 0. -/
theorem gpLead_ne_zero {a : List Nat} (h : GpNormal a) (ha : a ≠ []) : gpLead a ≠ 0 := by
  induction a with
  | nil => exact absurd rfl ha
  | cons c cs ih =>
    unfold GpNormal gpTrim at h
    split at h
    · rename_i heq
      split at h
      · cases h
      · rename_i hc
        have : cs = [] := ((List.cons.inj h).2).symm
        subst this
        exact hc
    · rename_i d ds heq
      have hcs : gpTrim cs = cs := by rw [heq]; exact (List.cons.inj h).2
      have hne : cs ≠ [] := by rw [← hcs, heq]; exact List.cons_ne_nil d ds
      have := ih hcs hne
      have hl := List.length_pos_of_ne_nil hne
      unfold gpLead at this ⊢
      rw [List.length_cons, Nat.add_sub_cancel, show cs.length = (cs.length - 1) + 1 by omega, List.getD_cons_succ]
      exact this

/-- Over a field without zero divisors, a constant other than 0 is coprime to every polynomial. -/
theorem gpCoprime_constant {F : SmallField} (h0 : ∀ x, F.mul 0 x = 0 ∧ F.mul x 0 = 0)
    (hz : ∀ x y, x < 2 ^ F.m.toNat → y < 2 ^ F.m.toNat → x ≠ 0 → y ≠ 0 → F.mul x y ≠ 0) {c : Nat} (hc : c ≠ 0) (g : List Nat) :
    GpCoprime F [c] g := by
  intro d hd hdvd _
  obtain ⟨q, hq, he⟩ := hdvd
  have hlead : ∀ a, GpPoly F a → a ≠ [] → gpLead a < 2 ^ F.m.toNat := by
    intro a ha hne
    have hl := List.length_pos_of_ne_nil hne
    refine ha.2 _ ?_
    unfold gpLead
    rw [List.getD_eq_getElem a 0 (by omega)]
    exact List.getElem_mem _
  have hzero : ∀ a b, a = [] ∨ b = [] → gpProductCoeff F a b 0 = 0 := by
    intro a b hab
    show 0 ^^^ F.mul (a.getD 0 0) (b.getD 0 0) = 0
    rcases hab with rfl | rfl
    · simp [(h0 _).1]
    · simp [(h0 _).2]
  have hqne : q ≠ [] := fun h => hc (by simpa using (he 0).trans (hzero q d (.inl h)))
  have hdne : d ≠ [] := fun h => hc (by simpa using (he 0).trans (hzero q d (.inr h)))
  have hql := List.length_pos_of_ne_nil hqne
  have hdl := List.length_pos_of_ne_nil hdne
  by_contra hne
  have hk := he ((q.length - 1) + (d.length - 1))
  rw [gpProductCoeff_lead h0 hqne hdne, List.getD_eq_default [c] 0 (by simp only [List.length_singleton]; omega)] at hk
  exact hz _ _ (hlead q hq hqne) (hlead d hd hdne) (gpLead_ne_zero hq.1 hqne) (gpLead_ne_zero hd.1 hdne) hk.symm

end Sys2Proof.Machine
end

