-- ==== Sys2Proof/Laws/State.lean ====
section
/-! SUPPORT. What each named update does to each field of the state: one lemma per field per update. -/

namespace Sys2Proof.Machine

variable (s : State)

/-! `setS` -/

@[simp] theorem State.setS_params (k : SReg) (v : Word) : (s.setS k v).params = s.params := rfl
@[simp] theorem State.setS_cmd (k : SReg) (v : Word) : (s.setS k v).cmd = s.cmd := rfl
@[simp] theorem State.setS_phase (k : SReg) (v : Word) : (s.setS k v).phase = s.phase := rfl
@[simp] theorem State.setS_status (k : SReg) (v : Word) : (s.setS k v).status = s.status := rfl
@[simp] theorem State.setS_ie (k : SReg) (v : Word) : (s.setS k v).ie = s.ie := rfl
@[simp] theorem State.setS_errcmd (k : SReg) (v : Word) : (s.setS k v).errcmd = s.errcmd := rfl
@[simp] theorem State.setS_cmdseq (k : SReg) (v : Word) : (s.setS k v).cmdseq = s.cmdseq := rfl
@[simp] theorem State.setS_itercap (k : SReg) (v : Word) : (s.setS k v).itercap = s.itercap := rfl
@[simp] theorem State.setS_itercnt (k : SReg) (v : Word) : (s.setS k v).itercnt = s.itercnt := rfl
@[simp] theorem State.setS_scalars (k : SReg) (v : Word) : (s.setS k v).scalars = s.scalars.set k.val v := rfl
@[simp] theorem State.setS_descs (k : SReg) (v : Word) : (s.setS k v).descs = s.descs := rfl
@[simp] theorem State.setS_sf (k : SReg) (v : Word) : (s.setS k v).sf = s.sf := rfl
@[simp] theorem State.setS_efc0 (k : SReg) (v : Word) : (s.setS k v).efc0 = s.efc0 := rfl
@[simp] theorem State.setS_efc1 (k : SReg) (v : Word) : (s.setS k v).efc1 = s.efc1 := rfl
@[simp] theorem State.setS_cob (k : SReg) (v : Word) : (s.setS k v).cob = s.cob := rfl
@[simp] theorem State.setS_om (k : SReg) (v : Word) : (s.setS k v).om = s.om := rfl
@[simp] theorem State.setS_candidates (k : SReg) (v : Word) : (s.setS k v).candidates = s.candidates := rfl
@[simp] theorem State.setS_env (k : SReg) (v : Word) : (s.setS k v).env = s.env := rfl

/-! `setD` -/

@[simp] theorem State.setD_params (d : DReg) (v : Desc) : (s.setD d v).params = s.params := rfl
@[simp] theorem State.setD_cmd (d : DReg) (v : Desc) : (s.setD d v).cmd = s.cmd := rfl
@[simp] theorem State.setD_phase (d : DReg) (v : Desc) : (s.setD d v).phase = s.phase := rfl
@[simp] theorem State.setD_status (d : DReg) (v : Desc) : (s.setD d v).status = s.status := rfl
@[simp] theorem State.setD_ie (d : DReg) (v : Desc) : (s.setD d v).ie = s.ie := rfl
@[simp] theorem State.setD_errcmd (d : DReg) (v : Desc) : (s.setD d v).errcmd = s.errcmd := rfl
@[simp] theorem State.setD_cmdseq (d : DReg) (v : Desc) : (s.setD d v).cmdseq = s.cmdseq := rfl
@[simp] theorem State.setD_itercap (d : DReg) (v : Desc) : (s.setD d v).itercap = s.itercap := rfl
@[simp] theorem State.setD_itercnt (d : DReg) (v : Desc) : (s.setD d v).itercnt = s.itercnt := rfl
@[simp] theorem State.setD_scalars (d : DReg) (v : Desc) : (s.setD d v).scalars = s.scalars := rfl
@[simp] theorem State.setD_descs (d : DReg) (v : Desc) : (s.setD d v).descs = s.descs.set d.val v := rfl
@[simp] theorem State.setD_sf (d : DReg) (v : Desc) : (s.setD d v).sf = s.sf := rfl
@[simp] theorem State.setD_efc0 (d : DReg) (v : Desc) : (s.setD d v).efc0 = s.efc0 := rfl
@[simp] theorem State.setD_efc1 (d : DReg) (v : Desc) : (s.setD d v).efc1 = s.efc1 := rfl
@[simp] theorem State.setD_cob (d : DReg) (v : Desc) : (s.setD d v).cob = s.cob := rfl
@[simp] theorem State.setD_om (d : DReg) (v : Desc) : (s.setD d v).om = s.om := rfl
@[simp] theorem State.setD_candidates (d : DReg) (v : Desc) : (s.setD d v).candidates = s.candidates := rfl
@[simp] theorem State.setD_env (d : DReg) (v : Desc) : (s.setD d v).env = s.env := rfl

/-! `setLen` -/

@[simp] theorem State.setLen_params (d : DReg) (n : Nat) : (s.setLen d n).params = s.params := rfl
@[simp] theorem State.setLen_cmd (d : DReg) (n : Nat) : (s.setLen d n).cmd = s.cmd := rfl
@[simp] theorem State.setLen_phase (d : DReg) (n : Nat) : (s.setLen d n).phase = s.phase := rfl
@[simp] theorem State.setLen_status (d : DReg) (n : Nat) : (s.setLen d n).status = s.status := rfl
@[simp] theorem State.setLen_ie (d : DReg) (n : Nat) : (s.setLen d n).ie = s.ie := rfl
@[simp] theorem State.setLen_errcmd (d : DReg) (n : Nat) : (s.setLen d n).errcmd = s.errcmd := rfl
@[simp] theorem State.setLen_cmdseq (d : DReg) (n : Nat) : (s.setLen d n).cmdseq = s.cmdseq := rfl
@[simp] theorem State.setLen_itercap (d : DReg) (n : Nat) : (s.setLen d n).itercap = s.itercap := rfl
@[simp] theorem State.setLen_itercnt (d : DReg) (n : Nat) : (s.setLen d n).itercnt = s.itercnt := rfl
@[simp] theorem State.setLen_scalars (d : DReg) (n : Nat) : (s.setLen d n).scalars = s.scalars := rfl
@[simp] theorem State.setLen_sf (d : DReg) (n : Nat) : (s.setLen d n).sf = s.sf := rfl
@[simp] theorem State.setLen_efc0 (d : DReg) (n : Nat) : (s.setLen d n).efc0 = s.efc0 := rfl
@[simp] theorem State.setLen_efc1 (d : DReg) (n : Nat) : (s.setLen d n).efc1 = s.efc1 := rfl
@[simp] theorem State.setLen_cob (d : DReg) (n : Nat) : (s.setLen d n).cob = s.cob := rfl
@[simp] theorem State.setLen_om (d : DReg) (n : Nat) : (s.setLen d n).om = s.om := rfl
@[simp] theorem State.setLen_candidates (d : DReg) (n : Nat) : (s.setLen d n).candidates = s.candidates := rfl
@[simp] theorem State.setLen_env (d : DReg) (n : Nat) : (s.setLen d n).env = s.env := rfl

/-! `setShape` -/

@[simp] theorem State.setShape_params (d : DReg) (r c : Nat) : (s.setShape d r c).params = s.params := rfl
@[simp] theorem State.setShape_cmd (d : DReg) (r c : Nat) : (s.setShape d r c).cmd = s.cmd := rfl
@[simp] theorem State.setShape_phase (d : DReg) (r c : Nat) : (s.setShape d r c).phase = s.phase := rfl
@[simp] theorem State.setShape_status (d : DReg) (r c : Nat) : (s.setShape d r c).status = s.status := rfl
@[simp] theorem State.setShape_ie (d : DReg) (r c : Nat) : (s.setShape d r c).ie = s.ie := rfl
@[simp] theorem State.setShape_errcmd (d : DReg) (r c : Nat) : (s.setShape d r c).errcmd = s.errcmd := rfl
@[simp] theorem State.setShape_cmdseq (d : DReg) (r c : Nat) : (s.setShape d r c).cmdseq = s.cmdseq := rfl
@[simp] theorem State.setShape_itercap (d : DReg) (r c : Nat) : (s.setShape d r c).itercap = s.itercap := rfl
@[simp] theorem State.setShape_itercnt (d : DReg) (r c : Nat) : (s.setShape d r c).itercnt = s.itercnt := rfl
@[simp] theorem State.setShape_scalars (d : DReg) (r c : Nat) : (s.setShape d r c).scalars = s.scalars := rfl
@[simp] theorem State.setShape_sf (d : DReg) (r c : Nat) : (s.setShape d r c).sf = s.sf := rfl
@[simp] theorem State.setShape_efc0 (d : DReg) (r c : Nat) : (s.setShape d r c).efc0 = s.efc0 := rfl
@[simp] theorem State.setShape_efc1 (d : DReg) (r c : Nat) : (s.setShape d r c).efc1 = s.efc1 := rfl
@[simp] theorem State.setShape_cob (d : DReg) (r c : Nat) : (s.setShape d r c).cob = s.cob := rfl
@[simp] theorem State.setShape_om (d : DReg) (r c : Nat) : (s.setShape d r c).om = s.om := rfl
@[simp] theorem State.setShape_candidates (d : DReg) (r c : Nat) : (s.setShape d r c).candidates = s.candidates := rfl
@[simp] theorem State.setShape_env (d : DReg) (r c : Nat) : (s.setShape d r c).env = s.env := rfl

/-! `setElem` -/

@[simp] theorem State.setElem_params (k : SReg) (v : Nat) : (s.setElem k v).params = s.params := rfl
@[simp] theorem State.setElem_cmd (k : SReg) (v : Nat) : (s.setElem k v).cmd = s.cmd := rfl
@[simp] theorem State.setElem_phase (k : SReg) (v : Nat) : (s.setElem k v).phase = s.phase := rfl
@[simp] theorem State.setElem_status (k : SReg) (v : Nat) : (s.setElem k v).status = s.status := rfl
@[simp] theorem State.setElem_ie (k : SReg) (v : Nat) : (s.setElem k v).ie = s.ie := rfl
@[simp] theorem State.setElem_errcmd (k : SReg) (v : Nat) : (s.setElem k v).errcmd = s.errcmd := rfl
@[simp] theorem State.setElem_cmdseq (k : SReg) (v : Nat) : (s.setElem k v).cmdseq = s.cmdseq := rfl
@[simp] theorem State.setElem_itercap (k : SReg) (v : Nat) : (s.setElem k v).itercap = s.itercap := rfl
@[simp] theorem State.setElem_itercnt (k : SReg) (v : Nat) : (s.setElem k v).itercnt = s.itercnt := rfl
@[simp] theorem State.setElem_scalars (k : SReg) (v : Nat) : (s.setElem k v).scalars = s.scalars.set k.val (BitVec.ofNat 32 v) := rfl
@[simp] theorem State.setElem_descs (k : SReg) (v : Nat) : (s.setElem k v).descs = s.descs := rfl
@[simp] theorem State.setElem_sf (k : SReg) (v : Nat) : (s.setElem k v).sf = s.sf := rfl
@[simp] theorem State.setElem_efc0 (k : SReg) (v : Nat) : (s.setElem k v).efc0 = s.efc0 := rfl
@[simp] theorem State.setElem_efc1 (k : SReg) (v : Nat) : (s.setElem k v).efc1 = s.efc1 := rfl
@[simp] theorem State.setElem_cob (k : SReg) (v : Nat) : (s.setElem k v).cob = s.cob := rfl
@[simp] theorem State.setElem_om (k : SReg) (v : Nat) : (s.setElem k v).om = s.om := rfl
@[simp] theorem State.setElem_candidates (k : SReg) (v : Nat) : (s.setElem k v).candidates = s.candidates := rfl
@[simp] theorem State.setElem_env (k : SReg) (v : Nat) : (s.setElem k v).env = s.env := rfl

/-! `writeBytes` -/

@[simp] theorem State.writeBytes_params (w : Nat) (vs : List Byte) : (s.writeBytes w vs).params = s.params := rfl
@[simp] theorem State.writeBytes_cmd (w : Nat) (vs : List Byte) : (s.writeBytes w vs).cmd = s.cmd := rfl
@[simp] theorem State.writeBytes_phase (w : Nat) (vs : List Byte) : (s.writeBytes w vs).phase = s.phase := rfl
@[simp] theorem State.writeBytes_status (w : Nat) (vs : List Byte) : (s.writeBytes w vs).status = s.status := rfl
@[simp] theorem State.writeBytes_ie (w : Nat) (vs : List Byte) : (s.writeBytes w vs).ie = s.ie := rfl
@[simp] theorem State.writeBytes_errcmd (w : Nat) (vs : List Byte) : (s.writeBytes w vs).errcmd = s.errcmd := rfl
@[simp] theorem State.writeBytes_cmdseq (w : Nat) (vs : List Byte) : (s.writeBytes w vs).cmdseq = s.cmdseq := rfl
@[simp] theorem State.writeBytes_itercap (w : Nat) (vs : List Byte) : (s.writeBytes w vs).itercap = s.itercap := rfl
@[simp] theorem State.writeBytes_itercnt (w : Nat) (vs : List Byte) : (s.writeBytes w vs).itercnt = s.itercnt := rfl
@[simp] theorem State.writeBytes_scalars (w : Nat) (vs : List Byte) : (s.writeBytes w vs).scalars = s.scalars := rfl
@[simp] theorem State.writeBytes_descs (w : Nat) (vs : List Byte) : (s.writeBytes w vs).descs = s.descs := rfl
@[simp] theorem State.writeBytes_sf (w : Nat) (vs : List Byte) : (s.writeBytes w vs).sf = s.sf := rfl
@[simp] theorem State.writeBytes_efc0 (w : Nat) (vs : List Byte) : (s.writeBytes w vs).efc0 = s.efc0 := rfl
@[simp] theorem State.writeBytes_efc1 (w : Nat) (vs : List Byte) : (s.writeBytes w vs).efc1 = s.efc1 := rfl
@[simp] theorem State.writeBytes_cob (w : Nat) (vs : List Byte) : (s.writeBytes w vs).cob = s.cob := rfl
@[simp] theorem State.writeBytes_om (w : Nat) (vs : List Byte) : (s.writeBytes w vs).om = s.om.setBytes (4 * w) vs := rfl
@[simp] theorem State.writeBytes_candidates (w : Nat) (vs : List Byte) : (s.writeBytes w vs).candidates = s.candidates := rfl
@[simp] theorem State.writeBytes_env (w : Nat) (vs : List Byte) : (s.writeBytes w vs).env = s.env := rfl

/-! `writeWords` -/

@[simp] theorem State.writeWords_params (w : Nat) (ws : List Word) : (s.writeWords w ws).params = s.params := rfl
@[simp] theorem State.writeWords_cmd (w : Nat) (ws : List Word) : (s.writeWords w ws).cmd = s.cmd := rfl
@[simp] theorem State.writeWords_phase (w : Nat) (ws : List Word) : (s.writeWords w ws).phase = s.phase := rfl
@[simp] theorem State.writeWords_status (w : Nat) (ws : List Word) : (s.writeWords w ws).status = s.status := rfl
@[simp] theorem State.writeWords_ie (w : Nat) (ws : List Word) : (s.writeWords w ws).ie = s.ie := rfl
@[simp] theorem State.writeWords_errcmd (w : Nat) (ws : List Word) : (s.writeWords w ws).errcmd = s.errcmd := rfl
@[simp] theorem State.writeWords_cmdseq (w : Nat) (ws : List Word) : (s.writeWords w ws).cmdseq = s.cmdseq := rfl
@[simp] theorem State.writeWords_itercap (w : Nat) (ws : List Word) : (s.writeWords w ws).itercap = s.itercap := rfl
@[simp] theorem State.writeWords_itercnt (w : Nat) (ws : List Word) : (s.writeWords w ws).itercnt = s.itercnt := rfl
@[simp] theorem State.writeWords_scalars (w : Nat) (ws : List Word) : (s.writeWords w ws).scalars = s.scalars := rfl
@[simp] theorem State.writeWords_descs (w : Nat) (ws : List Word) : (s.writeWords w ws).descs = s.descs := rfl
@[simp] theorem State.writeWords_sf (w : Nat) (ws : List Word) : (s.writeWords w ws).sf = s.sf := rfl
@[simp] theorem State.writeWords_efc0 (w : Nat) (ws : List Word) : (s.writeWords w ws).efc0 = s.efc0 := rfl
@[simp] theorem State.writeWords_efc1 (w : Nat) (ws : List Word) : (s.writeWords w ws).efc1 = s.efc1 := rfl
@[simp] theorem State.writeWords_cob (w : Nat) (ws : List Word) : (s.writeWords w ws).cob = s.cob := rfl
@[simp] theorem State.writeWords_om (w : Nat) (ws : List Word) : (s.writeWords w ws).om = s.om.setBytes (4 * w) (ws.flatMap bytesOfWord) := rfl
@[simp] theorem State.writeWords_candidates (w : Nat) (ws : List Word) : (s.writeWords w ws).candidates = s.candidates := rfl
@[simp] theorem State.writeWords_env (w : Nat) (ws : List Word) : (s.writeWords w ws).env = s.env := rfl

/-! `putPoly` -/

@[simp] theorem State.putPoly_params (d : DReg) (v n : Nat) : (s.putPoly d v n).params = s.params := rfl
@[simp] theorem State.putPoly_cmd (d : DReg) (v n : Nat) : (s.putPoly d v n).cmd = s.cmd := rfl
@[simp] theorem State.putPoly_phase (d : DReg) (v n : Nat) : (s.putPoly d v n).phase = s.phase := rfl
@[simp] theorem State.putPoly_status (d : DReg) (v n : Nat) : (s.putPoly d v n).status = s.status := rfl
@[simp] theorem State.putPoly_ie (d : DReg) (v n : Nat) : (s.putPoly d v n).ie = s.ie := rfl
@[simp] theorem State.putPoly_errcmd (d : DReg) (v n : Nat) : (s.putPoly d v n).errcmd = s.errcmd := rfl
@[simp] theorem State.putPoly_cmdseq (d : DReg) (v n : Nat) : (s.putPoly d v n).cmdseq = s.cmdseq := rfl
@[simp] theorem State.putPoly_itercap (d : DReg) (v n : Nat) : (s.putPoly d v n).itercap = s.itercap := rfl
@[simp] theorem State.putPoly_itercnt (d : DReg) (v n : Nat) : (s.putPoly d v n).itercnt = s.itercnt := rfl
@[simp] theorem State.putPoly_scalars (d : DReg) (v n : Nat) : (s.putPoly d v n).scalars = s.scalars := rfl
@[simp] theorem State.putPoly_sf (d : DReg) (v n : Nat) : (s.putPoly d v n).sf = s.sf := rfl
@[simp] theorem State.putPoly_efc0 (d : DReg) (v n : Nat) : (s.putPoly d v n).efc0 = s.efc0 := rfl
@[simp] theorem State.putPoly_efc1 (d : DReg) (v n : Nat) : (s.putPoly d v n).efc1 = s.efc1 := rfl
@[simp] theorem State.putPoly_cob (d : DReg) (v n : Nat) : (s.putPoly d v n).cob = s.cob := rfl
@[simp] theorem State.putPoly_candidates (d : DReg) (v n : Nat) : (s.putPoly d v n).candidates = s.candidates := rfl
@[simp] theorem State.putPoly_env (d : DReg) (v n : Nat) : (s.putPoly d v n).env = s.env := rfl

/-! `putElem` -/

@[simp] theorem State.putElem_params (E : ExtField) (d : DReg) (x : Nat) : (s.putElem E d x).params = s.params := rfl
@[simp] theorem State.putElem_cmd (E : ExtField) (d : DReg) (x : Nat) : (s.putElem E d x).cmd = s.cmd := rfl
@[simp] theorem State.putElem_phase (E : ExtField) (d : DReg) (x : Nat) : (s.putElem E d x).phase = s.phase := rfl
@[simp] theorem State.putElem_status (E : ExtField) (d : DReg) (x : Nat) : (s.putElem E d x).status = s.status := rfl
@[simp] theorem State.putElem_ie (E : ExtField) (d : DReg) (x : Nat) : (s.putElem E d x).ie = s.ie := rfl
@[simp] theorem State.putElem_errcmd (E : ExtField) (d : DReg) (x : Nat) : (s.putElem E d x).errcmd = s.errcmd := rfl
@[simp] theorem State.putElem_cmdseq (E : ExtField) (d : DReg) (x : Nat) : (s.putElem E d x).cmdseq = s.cmdseq := rfl
@[simp] theorem State.putElem_itercap (E : ExtField) (d : DReg) (x : Nat) : (s.putElem E d x).itercap = s.itercap := rfl
@[simp] theorem State.putElem_itercnt (E : ExtField) (d : DReg) (x : Nat) : (s.putElem E d x).itercnt = s.itercnt := rfl
@[simp] theorem State.putElem_scalars (E : ExtField) (d : DReg) (x : Nat) : (s.putElem E d x).scalars = s.scalars := rfl
@[simp] theorem State.putElem_sf (E : ExtField) (d : DReg) (x : Nat) : (s.putElem E d x).sf = s.sf := rfl
@[simp] theorem State.putElem_efc0 (E : ExtField) (d : DReg) (x : Nat) : (s.putElem E d x).efc0 = s.efc0 := rfl
@[simp] theorem State.putElem_efc1 (E : ExtField) (d : DReg) (x : Nat) : (s.putElem E d x).efc1 = s.efc1 := rfl
@[simp] theorem State.putElem_cob (E : ExtField) (d : DReg) (x : Nat) : (s.putElem E d x).cob = s.cob := rfl
@[simp] theorem State.putElem_candidates (E : ExtField) (d : DReg) (x : Nat) : (s.putElem E d x).candidates = s.candidates := rfl
@[simp] theorem State.putElem_env (E : ExtField) (d : DReg) (x : Nat) : (s.putElem E d x).env = s.env := rfl

/-! `putMat2` -/

@[simp] theorem State.putMat2_params (d : DReg) (m : List Nat) (r c : Nat) : (s.putMat2 d m r c).params = s.params := rfl
@[simp] theorem State.putMat2_cmd (d : DReg) (m : List Nat) (r c : Nat) : (s.putMat2 d m r c).cmd = s.cmd := rfl
@[simp] theorem State.putMat2_phase (d : DReg) (m : List Nat) (r c : Nat) : (s.putMat2 d m r c).phase = s.phase := rfl
@[simp] theorem State.putMat2_status (d : DReg) (m : List Nat) (r c : Nat) : (s.putMat2 d m r c).status = s.status := rfl
@[simp] theorem State.putMat2_ie (d : DReg) (m : List Nat) (r c : Nat) : (s.putMat2 d m r c).ie = s.ie := rfl
@[simp] theorem State.putMat2_errcmd (d : DReg) (m : List Nat) (r c : Nat) : (s.putMat2 d m r c).errcmd = s.errcmd := rfl
@[simp] theorem State.putMat2_cmdseq (d : DReg) (m : List Nat) (r c : Nat) : (s.putMat2 d m r c).cmdseq = s.cmdseq := rfl
@[simp] theorem State.putMat2_itercap (d : DReg) (m : List Nat) (r c : Nat) : (s.putMat2 d m r c).itercap = s.itercap := rfl
@[simp] theorem State.putMat2_itercnt (d : DReg) (m : List Nat) (r c : Nat) : (s.putMat2 d m r c).itercnt = s.itercnt := rfl
@[simp] theorem State.putMat2_scalars (d : DReg) (m : List Nat) (r c : Nat) : (s.putMat2 d m r c).scalars = s.scalars := rfl
@[simp] theorem State.putMat2_sf (d : DReg) (m : List Nat) (r c : Nat) : (s.putMat2 d m r c).sf = s.sf := rfl
@[simp] theorem State.putMat2_efc0 (d : DReg) (m : List Nat) (r c : Nat) : (s.putMat2 d m r c).efc0 = s.efc0 := rfl
@[simp] theorem State.putMat2_efc1 (d : DReg) (m : List Nat) (r c : Nat) : (s.putMat2 d m r c).efc1 = s.efc1 := rfl
@[simp] theorem State.putMat2_cob (d : DReg) (m : List Nat) (r c : Nat) : (s.putMat2 d m r c).cob = s.cob := rfl
@[simp] theorem State.putMat2_candidates (d : DReg) (m : List Nat) (r c : Nat) : (s.putMat2 d m r c).candidates = s.candidates := rfl
@[simp] theorem State.putMat2_env (d : DReg) (m : List Nat) (r c : Nat) : (s.putMat2 d m r c).env = s.env := rfl

/-! `putMatM` -/

@[simp] theorem State.putMatM_params (d : DReg) (m : List (List Nat)) (r c : Nat) : (s.putMatM d m r c).params = s.params := rfl
@[simp] theorem State.putMatM_cmd (d : DReg) (m : List (List Nat)) (r c : Nat) : (s.putMatM d m r c).cmd = s.cmd := rfl
@[simp] theorem State.putMatM_phase (d : DReg) (m : List (List Nat)) (r c : Nat) : (s.putMatM d m r c).phase = s.phase := rfl
@[simp] theorem State.putMatM_status (d : DReg) (m : List (List Nat)) (r c : Nat) : (s.putMatM d m r c).status = s.status := rfl
@[simp] theorem State.putMatM_ie (d : DReg) (m : List (List Nat)) (r c : Nat) : (s.putMatM d m r c).ie = s.ie := rfl
@[simp] theorem State.putMatM_errcmd (d : DReg) (m : List (List Nat)) (r c : Nat) : (s.putMatM d m r c).errcmd = s.errcmd := rfl
@[simp] theorem State.putMatM_cmdseq (d : DReg) (m : List (List Nat)) (r c : Nat) : (s.putMatM d m r c).cmdseq = s.cmdseq := rfl
@[simp] theorem State.putMatM_itercap (d : DReg) (m : List (List Nat)) (r c : Nat) : (s.putMatM d m r c).itercap = s.itercap := rfl
@[simp] theorem State.putMatM_itercnt (d : DReg) (m : List (List Nat)) (r c : Nat) : (s.putMatM d m r c).itercnt = s.itercnt := rfl
@[simp] theorem State.putMatM_scalars (d : DReg) (m : List (List Nat)) (r c : Nat) : (s.putMatM d m r c).scalars = s.scalars := rfl
@[simp] theorem State.putMatM_sf (d : DReg) (m : List (List Nat)) (r c : Nat) : (s.putMatM d m r c).sf = s.sf := rfl
@[simp] theorem State.putMatM_efc0 (d : DReg) (m : List (List Nat)) (r c : Nat) : (s.putMatM d m r c).efc0 = s.efc0 := rfl
@[simp] theorem State.putMatM_efc1 (d : DReg) (m : List (List Nat)) (r c : Nat) : (s.putMatM d m r c).efc1 = s.efc1 := rfl
@[simp] theorem State.putMatM_cob (d : DReg) (m : List (List Nat)) (r c : Nat) : (s.putMatM d m r c).cob = s.cob := rfl
@[simp] theorem State.putMatM_candidates (d : DReg) (m : List (List Nat)) (r c : Nat) : (s.putMatM d m r c).candidates = s.candidates := rfl
@[simp] theorem State.putMatM_env (d : DReg) (m : List (List Nat)) (r c : Nat) : (s.putMatM d m r c).env = s.env := rfl

/-! `putGoppa` -/

@[simp] theorem State.putGoppa_params (d : DReg) (a : List Nat) : (s.putGoppa d a).params = s.params := rfl
@[simp] theorem State.putGoppa_cmd (d : DReg) (a : List Nat) : (s.putGoppa d a).cmd = s.cmd := rfl
@[simp] theorem State.putGoppa_phase (d : DReg) (a : List Nat) : (s.putGoppa d a).phase = s.phase := rfl
@[simp] theorem State.putGoppa_status (d : DReg) (a : List Nat) : (s.putGoppa d a).status = s.status := rfl
@[simp] theorem State.putGoppa_ie (d : DReg) (a : List Nat) : (s.putGoppa d a).ie = s.ie := rfl
@[simp] theorem State.putGoppa_errcmd (d : DReg) (a : List Nat) : (s.putGoppa d a).errcmd = s.errcmd := rfl
@[simp] theorem State.putGoppa_cmdseq (d : DReg) (a : List Nat) : (s.putGoppa d a).cmdseq = s.cmdseq := rfl
@[simp] theorem State.putGoppa_itercap (d : DReg) (a : List Nat) : (s.putGoppa d a).itercap = s.itercap := rfl
@[simp] theorem State.putGoppa_itercnt (d : DReg) (a : List Nat) : (s.putGoppa d a).itercnt = s.itercnt := rfl
@[simp] theorem State.putGoppa_scalars (d : DReg) (a : List Nat) : (s.putGoppa d a).scalars = s.scalars := rfl
@[simp] theorem State.putGoppa_sf (d : DReg) (a : List Nat) : (s.putGoppa d a).sf = s.sf := rfl
@[simp] theorem State.putGoppa_efc0 (d : DReg) (a : List Nat) : (s.putGoppa d a).efc0 = s.efc0 := rfl
@[simp] theorem State.putGoppa_efc1 (d : DReg) (a : List Nat) : (s.putGoppa d a).efc1 = s.efc1 := rfl
@[simp] theorem State.putGoppa_cob (d : DReg) (a : List Nat) : (s.putGoppa d a).cob = s.cob := rfl
@[simp] theorem State.putGoppa_candidates (d : DReg) (a : List Nat) : (s.putGoppa d a).candidates = s.candidates := rfl
@[simp] theorem State.putGoppa_env (d : DReg) (a : List Nat) : (s.putGoppa d a).env = s.env := rfl

/-! `putImage` -/

@[simp] theorem State.putImage_params (d : DReg) (b : List Byte) : (s.putImage d b).params = s.params := rfl
@[simp] theorem State.putImage_cmd (d : DReg) (b : List Byte) : (s.putImage d b).cmd = s.cmd := rfl
@[simp] theorem State.putImage_phase (d : DReg) (b : List Byte) : (s.putImage d b).phase = s.phase := rfl
@[simp] theorem State.putImage_status (d : DReg) (b : List Byte) : (s.putImage d b).status = s.status := rfl
@[simp] theorem State.putImage_ie (d : DReg) (b : List Byte) : (s.putImage d b).ie = s.ie := rfl
@[simp] theorem State.putImage_errcmd (d : DReg) (b : List Byte) : (s.putImage d b).errcmd = s.errcmd := rfl
@[simp] theorem State.putImage_cmdseq (d : DReg) (b : List Byte) : (s.putImage d b).cmdseq = s.cmdseq := rfl
@[simp] theorem State.putImage_itercap (d : DReg) (b : List Byte) : (s.putImage d b).itercap = s.itercap := rfl
@[simp] theorem State.putImage_itercnt (d : DReg) (b : List Byte) : (s.putImage d b).itercnt = s.itercnt := rfl
@[simp] theorem State.putImage_scalars (d : DReg) (b : List Byte) : (s.putImage d b).scalars = s.scalars := rfl
@[simp] theorem State.putImage_sf (d : DReg) (b : List Byte) : (s.putImage d b).sf = s.sf := rfl
@[simp] theorem State.putImage_efc0 (d : DReg) (b : List Byte) : (s.putImage d b).efc0 = s.efc0 := rfl
@[simp] theorem State.putImage_efc1 (d : DReg) (b : List Byte) : (s.putImage d b).efc1 = s.efc1 := rfl
@[simp] theorem State.putImage_cob (d : DReg) (b : List Byte) : (s.putImage d b).cob = s.cob := rfl
@[simp] theorem State.putImage_candidates (d : DReg) (b : List Byte) : (s.putImage d b).candidates = s.candidates := rfl
@[simp] theorem State.putImage_env (d : DReg) (b : List Byte) : (s.putImage d b).env = s.env := rfl

/-! `appendCob` -/

@[simp] theorem State.appendCob_params (A B : ExtField) (m : List Nat) : (s.appendCob A B m).params = s.params := rfl
@[simp] theorem State.appendCob_cmd (A B : ExtField) (m : List Nat) : (s.appendCob A B m).cmd = s.cmd := rfl
@[simp] theorem State.appendCob_phase (A B : ExtField) (m : List Nat) : (s.appendCob A B m).phase = s.phase := rfl
@[simp] theorem State.appendCob_status (A B : ExtField) (m : List Nat) : (s.appendCob A B m).status = s.status := rfl
@[simp] theorem State.appendCob_ie (A B : ExtField) (m : List Nat) : (s.appendCob A B m).ie = s.ie := rfl
@[simp] theorem State.appendCob_errcmd (A B : ExtField) (m : List Nat) : (s.appendCob A B m).errcmd = s.errcmd := rfl
@[simp] theorem State.appendCob_cmdseq (A B : ExtField) (m : List Nat) : (s.appendCob A B m).cmdseq = s.cmdseq := rfl
@[simp] theorem State.appendCob_itercap (A B : ExtField) (m : List Nat) : (s.appendCob A B m).itercap = s.itercap := rfl
@[simp] theorem State.appendCob_itercnt (A B : ExtField) (m : List Nat) : (s.appendCob A B m).itercnt = s.itercnt := rfl
@[simp] theorem State.appendCob_scalars (A B : ExtField) (m : List Nat) : (s.appendCob A B m).scalars = s.scalars := rfl
@[simp] theorem State.appendCob_descs (A B : ExtField) (m : List Nat) : (s.appendCob A B m).descs = s.descs := rfl
@[simp] theorem State.appendCob_sf (A B : ExtField) (m : List Nat) : (s.appendCob A B m).sf = s.sf := rfl
@[simp] theorem State.appendCob_efc0 (A B : ExtField) (m : List Nat) : (s.appendCob A B m).efc0 = s.efc0 := rfl
@[simp] theorem State.appendCob_efc1 (A B : ExtField) (m : List Nat) : (s.appendCob A B m).efc1 = s.efc1 := rfl
@[simp] theorem State.appendCob_om (A B : ExtField) (m : List Nat) : (s.appendCob A B m).om = s.om := rfl
@[simp] theorem State.appendCob_candidates (A B : ExtField) (m : List Nat) : (s.appendCob A B m).candidates = s.candidates := rfl
@[simp] theorem State.appendCob_env (A B : ExtField) (m : List Nat) : (s.appendCob A B m).env = s.env := rfl

/-! `complete` -/

@[simp] theorem State.complete_params (j : Nat) : (s.complete j).params = s.params := rfl
@[simp] theorem State.complete_cmd (j : Nat) : (s.complete j).cmd = s.cmd := rfl
@[simp] theorem State.complete_phase (j : Nat) : (s.complete j).phase = .idle := rfl
@[simp] theorem State.complete_status (j : Nat) : (s.complete j).status = { s.status with done := true } := rfl
@[simp] theorem State.complete_ie (j : Nat) : (s.complete j).ie = s.ie := rfl
@[simp] theorem State.complete_errcmd (j : Nat) : (s.complete j).errcmd = s.errcmd := rfl
@[simp] theorem State.complete_cmdseq (j : Nat) : (s.complete j).cmdseq = s.cmdseq := rfl
@[simp] theorem State.complete_itercap (j : Nat) : (s.complete j).itercap = s.itercap := rfl
@[simp] theorem State.complete_itercnt (j : Nat) : (s.complete j).itercnt = iterWord j := rfl
@[simp] theorem State.complete_scalars (j : Nat) : (s.complete j).scalars = s.scalars := rfl
@[simp] theorem State.complete_descs (j : Nat) : (s.complete j).descs = s.descs := rfl
@[simp] theorem State.complete_sf (j : Nat) : (s.complete j).sf = s.sf := rfl
@[simp] theorem State.complete_efc0 (j : Nat) : (s.complete j).efc0 = s.efc0 := rfl
@[simp] theorem State.complete_efc1 (j : Nat) : (s.complete j).efc1 = s.efc1 := rfl
@[simp] theorem State.complete_cob (j : Nat) : (s.complete j).cob = s.cob := rfl
@[simp] theorem State.complete_om (j : Nat) : (s.complete j).om = s.om := rfl
@[simp] theorem State.complete_candidates (j : Nat) : (s.complete j).candidates = 0 := rfl
@[simp] theorem State.complete_env (j : Nat) : (s.complete j).env = s.env := rfl

/-! `latch` -/

@[simp] theorem State.latch_params (e : ErrCode) (j : Nat) : (s.latch e j).params = s.params := rfl
@[simp] theorem State.latch_cmd (e : ErrCode) (j : Nat) : (s.latch e j).cmd = s.cmd := rfl
@[simp] theorem State.latch_phase (e : ErrCode) (j : Nat) : (s.latch e j).phase = .idle := rfl
@[simp] theorem State.latch_status (e : ErrCode) (j : Nat) : (s.latch e j).status = { s.status with done := true, err := true, errcode := e.code } := rfl
@[simp] theorem State.latch_ie (e : ErrCode) (j : Nat) : (s.latch e j).ie = s.ie := rfl
@[simp] theorem State.latch_errcmd (e : ErrCode) (j : Nat) : (s.latch e j).errcmd = s.cmd := rfl
@[simp] theorem State.latch_cmdseq (e : ErrCode) (j : Nat) : (s.latch e j).cmdseq = s.cmdseq := rfl
@[simp] theorem State.latch_itercap (e : ErrCode) (j : Nat) : (s.latch e j).itercap = s.itercap := rfl
@[simp] theorem State.latch_itercnt (e : ErrCode) (j : Nat) : (s.latch e j).itercnt = iterWord j := rfl
@[simp] theorem State.latch_scalars (e : ErrCode) (j : Nat) : (s.latch e j).scalars = s.scalars := rfl
@[simp] theorem State.latch_descs (e : ErrCode) (j : Nat) : (s.latch e j).descs = s.descs := rfl
@[simp] theorem State.latch_sf (e : ErrCode) (j : Nat) : (s.latch e j).sf = s.sf := rfl
@[simp] theorem State.latch_efc0 (e : ErrCode) (j : Nat) : (s.latch e j).efc0 = s.efc0 := rfl
@[simp] theorem State.latch_efc1 (e : ErrCode) (j : Nat) : (s.latch e j).efc1 = s.efc1 := rfl
@[simp] theorem State.latch_cob (e : ErrCode) (j : Nat) : (s.latch e j).cob = s.cob := rfl
@[simp] theorem State.latch_om (e : ErrCode) (j : Nat) : (s.latch e j).om = s.om := rfl
@[simp] theorem State.latch_candidates (e : ErrCode) (j : Nat) : (s.latch e j).candidates = 0 := rfl
@[simp] theorem State.latch_env (e : ErrCode) (j : Nat) : (s.latch e j).env = s.env := rfl

/-! `accept` -/

@[simp] theorem State.accept_params (w : Word) : (s.accept w).params = s.params := rfl
@[simp] theorem State.accept_cmd (w : Word) : (s.accept w).cmd = w := rfl
@[simp] theorem State.accept_phase (w : Word) : (s.accept w).phase = .busy := rfl
@[simp] theorem State.accept_status (w : Word) : (s.accept w).status = { s.status with done := false } := rfl
@[simp] theorem State.accept_ie (w : Word) : (s.accept w).ie = s.ie := rfl
@[simp] theorem State.accept_errcmd (w : Word) : (s.accept w).errcmd = s.errcmd := rfl
@[simp] theorem State.accept_cmdseq (w : Word) : (s.accept w).cmdseq = s.cmdseq + 1 := rfl
@[simp] theorem State.accept_itercap (w : Word) : (s.accept w).itercap = s.itercap := rfl
@[simp] theorem State.accept_itercnt (w : Word) : (s.accept w).itercnt = s.itercnt := rfl
@[simp] theorem State.accept_scalars (w : Word) : (s.accept w).scalars = s.scalars := rfl
@[simp] theorem State.accept_descs (w : Word) : (s.accept w).descs = s.descs := rfl
@[simp] theorem State.accept_sf (w : Word) : (s.accept w).sf = s.sf := rfl
@[simp] theorem State.accept_efc0 (w : Word) : (s.accept w).efc0 = s.efc0 := rfl
@[simp] theorem State.accept_efc1 (w : Word) : (s.accept w).efc1 = s.efc1 := rfl
@[simp] theorem State.accept_cob (w : Word) : (s.accept w).cob = s.cob := rfl
@[simp] theorem State.accept_om (w : Word) : (s.accept w).om = s.om := rfl
@[simp] theorem State.accept_candidates (w : Word) : (s.accept w).candidates = 0 := rfl
@[simp] theorem State.accept_env (w : Word) : (s.accept w).env = s.env := rfl

/-! `clearStatus` -/

@[simp] theorem State.clearStatus_params (v : Word) : (s.clearStatus v).params = s.params := rfl
@[simp] theorem State.clearStatus_cmd (v : Word) : (s.clearStatus v).cmd = s.cmd := rfl
@[simp] theorem State.clearStatus_phase (v : Word) : (s.clearStatus v).phase = s.phase := rfl
@[simp] theorem State.clearStatus_status (v : Word) : (s.clearStatus v).status = s.status.writeOneToClear v := rfl
@[simp] theorem State.clearStatus_ie (v : Word) : (s.clearStatus v).ie = s.ie := rfl
@[simp] theorem State.clearStatus_errcmd (v : Word) : (s.clearStatus v).errcmd = s.errcmd := rfl
@[simp] theorem State.clearStatus_cmdseq (v : Word) : (s.clearStatus v).cmdseq = s.cmdseq := rfl
@[simp] theorem State.clearStatus_itercap (v : Word) : (s.clearStatus v).itercap = s.itercap := rfl
@[simp] theorem State.clearStatus_itercnt (v : Word) : (s.clearStatus v).itercnt = s.itercnt := rfl
@[simp] theorem State.clearStatus_scalars (v : Word) : (s.clearStatus v).scalars = s.scalars := rfl
@[simp] theorem State.clearStatus_descs (v : Word) : (s.clearStatus v).descs = s.descs := rfl
@[simp] theorem State.clearStatus_sf (v : Word) : (s.clearStatus v).sf = s.sf := rfl
@[simp] theorem State.clearStatus_efc0 (v : Word) : (s.clearStatus v).efc0 = s.efc0 := rfl
@[simp] theorem State.clearStatus_efc1 (v : Word) : (s.clearStatus v).efc1 = s.efc1 := rfl
@[simp] theorem State.clearStatus_cob (v : Word) : (s.clearStatus v).cob = s.cob := rfl
@[simp] theorem State.clearStatus_om (v : Word) : (s.clearStatus v).om = s.om := rfl
@[simp] theorem State.clearStatus_candidates (v : Word) : (s.clearStatus v).candidates = s.candidates := rfl
@[simp] theorem State.clearStatus_env (v : Word) : (s.clearStatus v).env = s.env := rfl

/-! `setBusyacc` -/

@[simp] theorem State.setBusyacc_params : (s.setBusyacc).params = s.params := rfl
@[simp] theorem State.setBusyacc_cmd : (s.setBusyacc).cmd = s.cmd := rfl
@[simp] theorem State.setBusyacc_phase : (s.setBusyacc).phase = s.phase := rfl
@[simp] theorem State.setBusyacc_status : (s.setBusyacc).status = { s.status with busyacc := true } := rfl
@[simp] theorem State.setBusyacc_ie : (s.setBusyacc).ie = s.ie := rfl
@[simp] theorem State.setBusyacc_errcmd : (s.setBusyacc).errcmd = s.errcmd := rfl
@[simp] theorem State.setBusyacc_cmdseq : (s.setBusyacc).cmdseq = s.cmdseq := rfl
@[simp] theorem State.setBusyacc_itercap : (s.setBusyacc).itercap = s.itercap := rfl
@[simp] theorem State.setBusyacc_itercnt : (s.setBusyacc).itercnt = s.itercnt := rfl
@[simp] theorem State.setBusyacc_scalars : (s.setBusyacc).scalars = s.scalars := rfl
@[simp] theorem State.setBusyacc_descs : (s.setBusyacc).descs = s.descs := rfl
@[simp] theorem State.setBusyacc_sf : (s.setBusyacc).sf = s.sf := rfl
@[simp] theorem State.setBusyacc_efc0 : (s.setBusyacc).efc0 = s.efc0 := rfl
@[simp] theorem State.setBusyacc_efc1 : (s.setBusyacc).efc1 = s.efc1 := rfl
@[simp] theorem State.setBusyacc_cob : (s.setBusyacc).cob = s.cob := rfl
@[simp] theorem State.setBusyacc_om : (s.setBusyacc).om = s.om := rfl
@[simp] theorem State.setBusyacc_candidates : (s.setBusyacc).candidates = s.candidates := rfl
@[simp] theorem State.setBusyacc_env : (s.setBusyacc).env = s.env := rfl

/-! `respond` -/

@[simp] theorem State.respond_params (r : Response) : (s.respond r).params = s.params := rfl
@[simp] theorem State.respond_cmd (r : Response) : (s.respond r).cmd = s.cmd := rfl
@[simp] theorem State.respond_phase (r : Response) : (s.respond r).phase = s.phase := rfl
@[simp] theorem State.respond_status (r : Response) : (s.respond r).status = s.status := rfl
@[simp] theorem State.respond_ie (r : Response) : (s.respond r).ie = s.ie := rfl
@[simp] theorem State.respond_errcmd (r : Response) : (s.respond r).errcmd = s.errcmd := rfl
@[simp] theorem State.respond_cmdseq (r : Response) : (s.respond r).cmdseq = s.cmdseq := rfl
@[simp] theorem State.respond_itercap (r : Response) : (s.respond r).itercap = s.itercap := rfl
@[simp] theorem State.respond_itercnt (r : Response) : (s.respond r).itercnt = s.itercnt := rfl
@[simp] theorem State.respond_scalars (r : Response) : (s.respond r).scalars = s.scalars := rfl
@[simp] theorem State.respond_descs (r : Response) : (s.respond r).descs = s.descs := rfl
@[simp] theorem State.respond_sf (r : Response) : (s.respond r).sf = s.sf := rfl
@[simp] theorem State.respond_efc0 (r : Response) : (s.respond r).efc0 = s.efc0 := rfl
@[simp] theorem State.respond_efc1 (r : Response) : (s.respond r).efc1 = s.efc1 := rfl
@[simp] theorem State.respond_cob (r : Response) : (s.respond r).cob = s.cob := rfl
@[simp] theorem State.respond_om (r : Response) : (s.respond r).om = s.om := rfl
@[simp] theorem State.respond_candidates (r : Response) : (s.respond r).candidates = s.candidates := rfl
@[simp] theorem State.respond_env (r : Response) : (s.respond r).env = { s.env with response := r } := rfl

/-! `withInputs` -/

@[simp] theorem State.withInputs_params (l : List Input) : (s.withInputs l).params = s.params := rfl
@[simp] theorem State.withInputs_cmd (l : List Input) : (s.withInputs l).cmd = s.cmd := rfl
@[simp] theorem State.withInputs_phase (l : List Input) : (s.withInputs l).phase = s.phase := rfl
@[simp] theorem State.withInputs_status (l : List Input) : (s.withInputs l).status = s.status := rfl
@[simp] theorem State.withInputs_ie (l : List Input) : (s.withInputs l).ie = s.ie := rfl
@[simp] theorem State.withInputs_errcmd (l : List Input) : (s.withInputs l).errcmd = s.errcmd := rfl
@[simp] theorem State.withInputs_cmdseq (l : List Input) : (s.withInputs l).cmdseq = s.cmdseq := rfl
@[simp] theorem State.withInputs_itercap (l : List Input) : (s.withInputs l).itercap = s.itercap := rfl
@[simp] theorem State.withInputs_itercnt (l : List Input) : (s.withInputs l).itercnt = s.itercnt := rfl
@[simp] theorem State.withInputs_scalars (l : List Input) : (s.withInputs l).scalars = s.scalars := rfl
@[simp] theorem State.withInputs_descs (l : List Input) : (s.withInputs l).descs = s.descs := rfl
@[simp] theorem State.withInputs_sf (l : List Input) : (s.withInputs l).sf = s.sf := rfl
@[simp] theorem State.withInputs_efc0 (l : List Input) : (s.withInputs l).efc0 = s.efc0 := rfl
@[simp] theorem State.withInputs_efc1 (l : List Input) : (s.withInputs l).efc1 = s.efc1 := rfl
@[simp] theorem State.withInputs_cob (l : List Input) : (s.withInputs l).cob = s.cob := rfl
@[simp] theorem State.withInputs_om (l : List Input) : (s.withInputs l).om = s.om := rfl
@[simp] theorem State.withInputs_candidates (l : List Input) : (s.withInputs l).candidates = s.candidates := rfl
@[simp] theorem State.withInputs_env (l : List Input) : (s.withInputs l).env = { s.env with inputs := l } := rfl

/-! `setEfc` -/

@[simp] theorem State.setEfc_params (c : Ctx) (E : ExtField) : (s.setEfc c E).params = s.params := by cases c <;> rfl
@[simp] theorem State.setEfc_cmd (c : Ctx) (E : ExtField) : (s.setEfc c E).cmd = s.cmd := by cases c <;> rfl
@[simp] theorem State.setEfc_phase (c : Ctx) (E : ExtField) : (s.setEfc c E).phase = s.phase := by cases c <;> rfl
@[simp] theorem State.setEfc_status (c : Ctx) (E : ExtField) : (s.setEfc c E).status = s.status := by cases c <;> rfl
@[simp] theorem State.setEfc_ie (c : Ctx) (E : ExtField) : (s.setEfc c E).ie = s.ie := by cases c <;> rfl
@[simp] theorem State.setEfc_errcmd (c : Ctx) (E : ExtField) : (s.setEfc c E).errcmd = s.errcmd := by cases c <;> rfl
@[simp] theorem State.setEfc_cmdseq (c : Ctx) (E : ExtField) : (s.setEfc c E).cmdseq = s.cmdseq := by cases c <;> rfl
@[simp] theorem State.setEfc_itercap (c : Ctx) (E : ExtField) : (s.setEfc c E).itercap = s.itercap := by cases c <;> rfl
@[simp] theorem State.setEfc_itercnt (c : Ctx) (E : ExtField) : (s.setEfc c E).itercnt = s.itercnt := by cases c <;> rfl
@[simp] theorem State.setEfc_scalars (c : Ctx) (E : ExtField) : (s.setEfc c E).scalars = s.scalars := by cases c <;> rfl
@[simp] theorem State.setEfc_descs (c : Ctx) (E : ExtField) : (s.setEfc c E).descs = s.descs := by cases c <;> rfl
@[simp] theorem State.setEfc_sf (c : Ctx) (E : ExtField) : (s.setEfc c E).sf = s.sf := by cases c <;> rfl
@[simp] theorem State.setEfc_cob (c : Ctx) (E : ExtField) : (s.setEfc c E).cob = s.cob := by cases c <;> rfl
@[simp] theorem State.setEfc_om (c : Ctx) (E : ExtField) : (s.setEfc c E).om = s.om := by cases c <;> rfl
@[simp] theorem State.setEfc_candidates (c : Ctx) (E : ExtField) : (s.setEfc c E).candidates = s.candidates := by cases c <;> rfl
@[simp] theorem State.setEfc_env (c : Ctx) (E : ExtField) : (s.setEfc c E).env = s.env := by cases c <;> rfl

@[simp] theorem State.efc_setEfc_self (c : Ctx) (E : ExtField) : (s.setEfc c E).efc c = E := by cases c <;> rfl

@[simp] theorem State.efc_setEfc_other (c : Ctx) (E : ExtField) :
    (s.setEfc c E).efc (otherCtx c) = s.efc (otherCtx c) := by cases c <;> rfl

/-! Scalar and descriptor registers read back -/

@[simp] theorem State.S_setS_self (k : SReg) (v : Word) : (s.setS k v).S k = v := by simp [State.S]

@[simp] theorem State.S_setS_ne (k l : SReg) (v : Word) (h : l ≠ k) : (s.setS k v).S l = s.S l := by
  have h' : k.val ≠ l.val := fun e => h (Fin.ext e.symm)
  simp [State.S, h']

@[simp] theorem State.D_setD_self (d : DReg) (v : Desc) : (s.setD d v).D d = v := by simp [State.D]

@[simp] theorem State.D_setD_ne (d e : DReg) (v : Desc) (h : e ≠ d) : (s.setD d v).D e = s.D e := by
  have h' : d.val ≠ e.val := fun x => h (Fin.ext x.symm)
  simp [State.D, h']

theorem State.D_setLen_self (d : DReg) (n : Nat) :
    (s.setLen d n).D d = { s.D d with len := BitVec.ofNat 32 n } := by simp [State.setLen]

theorem State.D_setShape_self (d : DReg) (r c : Nat) :
    (s.setShape d r c).D d = { s.D d with rows := BitVec.ofNat 32 r, cols := BitVec.ofNat 32 c } := by
  simp [State.setShape]

/-- Only OM decides what `D` and `S` read after a store into OM. -/
@[simp] theorem State.D_writeBytes (w : Nat) (vs : List Byte) (d : DReg) : (s.writeBytes w vs).D d = s.D d := rfl

@[simp] theorem State.S_writeBytes (w : Nat) (vs : List Byte) (k : SReg) : (s.writeBytes w vs).S k = s.S k := rfl

@[simp] theorem State.D_writeWords (w : Nat) (ws : List Word) (d : DReg) : (s.writeWords w ws).D d = s.D d := rfl

@[simp] theorem State.S_writeWords (w : Nat) (ws : List Word) (k : SReg) : (s.writeWords w ws).S k = s.S k := rfl

/-- Completion and the error latch leave the operands as they are. -/
@[simp] theorem State.D_complete (j : Nat) (d : DReg) : (s.complete j).D d = s.D d := rfl

@[simp] theorem State.S_complete (j : Nat) (k : SReg) : (s.complete j).S k = s.S k := rfl

@[simp] theorem State.D_latch (e : ErrCode) (j : Nat) (d : DReg) : (s.latch e j).D d = s.D d := rfl

@[simp] theorem State.S_latch (e : ErrCode) (j : Nat) (k : SReg) : (s.latch e j).S k = s.S k := rfl

@[simp] theorem State.readByte_complete (j a : Nat) : (s.complete j).readByte a = s.readByte a := rfl

@[simp] theorem State.readByte_latch (e : ErrCode) (j a : Nat) : (s.latch e j).readByte a = s.readByte a := rfl

@[simp] theorem State.readByte_setS (k : SReg) (v : Word) (a : Nat) : (s.setS k v).readByte a = s.readByte a := rfl

@[simp] theorem State.readByte_setD (d : DReg) (v : Desc) (a : Nat) : (s.setD d v).readByte a = s.readByte a := rfl

@[simp] theorem State.readByte_setLen (d : DReg) (n a : Nat) : (s.setLen d n).readByte a = s.readByte a := rfl

@[simp] theorem State.readByte_setShape (d : DReg) (r c a : Nat) : (s.setShape d r c).readByte a = s.readByte a := rfl

/-- What a word reads depends on its four bytes alone. -/
theorem State.readWord_congr (t : State) (w : Nat) (h : ∀ k, k < 4 → t.readByte (4 * w + k) = s.readByte (4 * w + k)) :
    t.readWord w = s.readWord w := by
  have h0 := h 0 (by decide)
  have h1 := h 1 (by decide)
  have h2 := h 2 (by decide)
  have h3 := h 3 (by decide)
  simp only [Nat.add_zero] at h0
  simp [State.readWord, h0, h1, h2, h3]

end Sys2Proof.Machine
end

