-- ==== Sys2Proof/Laws/Ops.lean ====
section
/-! SUPPORT. What each shared operation can do, said once: checks, the end of a command, issue, the random source, a turn of a search,
a step. -/

namespace Sys2Proof.Machine

/-! ### Checks -/

theorem check_of {c : Prop} [Decidable c] (e : ErrCode) (h : c) : check c e = .ok () := by simp [check, h]

theorem check_of_not {c : Prop} [Decidable c] (e : ErrCode) (h : ¬ c) : check c e = .error e := by simp [check, h]

/-- A check followed by the rest of a command. -/
theorem check_bind {α : Type} (c : Prop) [Decidable c] (e : ErrCode) (k : Unit → Except ErrCode α) :
    (check c e >>= k) = if c then k () else .error e := by
  by_cases h : c <;> simp [check, h, bind, Except.bind]

/-- Two checks with one error are one check. -/
theorem check_and (c d : Prop) [Decidable c] [Decidable d] (e : ErrCode) :
    (do check c e; check d e) = check (c ∧ d) e := by
  by_cases h : c <;> simp [check, h, bind, Except.bind]

/-! ### The end of a command -/

/-- A command that draws no candidate commits or latches the error of its first failing check. -/
theorem finish_cases {s t : State} {r : Except ErrCode State} (h : finish s r = .next t) :
    (∃ u, r = .ok u ∧ t = u.complete 0) ∨ (∃ e, r = .error e ∧ t = s.latch e 0) := by
  cases r with
  | ok u => exact .inl ⟨u, rfl, by simpa [finish] using h.symm⟩
  | error e => exact .inr ⟨e, rfl, by simpa [finish] using h.symm⟩

@[simp] theorem finish_ok (s u : State) : finish s (.ok u) = .next (u.complete 0) := rfl

@[simp] theorem finish_error (s : State) (e : ErrCode) : finish s (.error e) = .next (s.latch e 0) := rfl

theorem finish_next (s : State) (r : Except ErrCode State) : ∃ t, finish s r = .next t := by
  cases r with
  | ok u => exact ⟨_, rfl⟩
  | error e => exact ⟨_, rfl⟩

theorem afterChecks_cases {s t : State} {r : Except ErrCode Unit} {last : Result} (h : afterChecks s r last = .next t) :
    (r = .ok () ∧ last = .next t) ∨ (∃ e, r = .error e ∧ t = s.latch e 0) := by
  cases r with
  | ok u => exact .inl ⟨rfl, h⟩
  | error e => exact .inr ⟨e, rfl, by simpa [afterChecks] using h.symm⟩

@[simp] theorem afterChecks_ok (s : State) (last : Result) : afterChecks s (.ok ()) last = last := rfl

@[simp] theorem afterChecks_error (s : State) (e : ErrCode) (last : Result) :
    afterChecks s (.error e) last = .next (s.latch e 0) := rfl

/-! ### Issue -/

/-- A CMD write is accepted exactly while IDLE with ERR = 0. -/
theorem issue_cases (s : State) (w : Word) :
    (s.phase = .idle ∧ s.status.err = false ∧ s.issue w = s.accept w)
      ∨ ((s.phase = .busy ∨ s.status.err = true) ∧ s.issue w = { s with status := { s.status with rej := true } }) := by
  by_cases h : s.phase = .idle ∧ s.status.err = false
  · exact .inl ⟨h.1, h.2, by simp [State.issue, h]⟩
  · refine .inr ⟨?_, by simp [State.issue, h]⟩
    cases hp : s.phase with
    | busy => exact .inl rfl
    | idle =>
      cases he : s.status.err with
      | true => exact .inr rfl
      | false => exact absurd ⟨hp, he⟩ h

/-! ### The random source -/

/-- Taking an answer changes nothing but the record of the answers taken. -/
theorem takeAnswer_state (s : State) :
    ∃ l, s.takeAnswer.2 = { s with env := { s.env with answers := l, answered := s.env.answered + 1 } } := by
  unfold State.takeAnswer
  split
  · exact ⟨_, rfl⟩
  · refine ⟨s.env.answers, ?_⟩
    rfl

/-- A pending answer is the one taken. -/
theorem takeAnswer_cons (s : State) (a : Nat) (l : List Nat) (h : s.env.answers = a :: l) : s.takeAnswer.1 = a := by
  unfold State.takeAnswer
  split
  · rename_i heq
    rw [h] at heq
    simpa using (List.cons.inj heq).1.symm
  · rename_i heq
    rw [h] at heq
    cases heq

/-- Drawing words changes nothing but the record of the answers taken. -/
theorem drawWords_state (s : State) (k : Nat) :
    ∃ l, (s.drawWords k).2 = { s with env := { s.env with answers := l, answered := s.env.answered + k } } := by
  induction k generalizing s with
  | zero => exact ⟨s.env.answers, rfl⟩
  | succ k ih =>
    obtain ⟨l, hl⟩ := takeAnswer_state s
    obtain ⟨l', hl'⟩ := ih s.takeAnswer.2
    have hn : s.env.answered + 1 + k = s.env.answered + (k + 1) := by omega
    refine ⟨l', ?_⟩
    show (s.takeAnswer.2.drawWords k).2 = _
    rw [hl', hl, ← hn]

/-- A draw of `k` words is a `32·k`-bit number. -/
theorem drawWords_lt (s : State) (k : Nat) : (s.drawWords k).1 < 2 ^ (32 * k) := by
  induction k generalizing s with
  | zero => simp [State.drawWords]
  | succ k ih =>
    have h := ih s.takeAnswer.2
    have hm : s.takeAnswer.1 % 2 ^ 32 < 2 ^ 32 := Nat.mod_lt _ (by decide)
    have he : 2 ^ (32 * (k + 1)) = 2 ^ 32 * 2 ^ (32 * k) := by rw [← Nat.pow_add]; congr 1; omega
    simp only [State.drawWords]
    rw [he]
    calc s.takeAnswer.1 % 2 ^ 32 + 2 ^ 32 * (s.takeAnswer.2.drawWords k).1
        < 2 ^ 32 + 2 ^ 32 * (s.takeAnswer.2.drawWords k).1 := by omega
      _ = 2 ^ 32 * ((s.takeAnswer.2.drawWords k).1 + 1) := by ring
      _ ≤ 2 ^ 32 * 2 ^ (32 * k) := Nat.mul_le_mul_left _ h

/-! ### A turn of a search -/

/-- A search ends at its limit, or draws one candidate: it fails and the command stays, or it succeeds and the command ends. -/
theorem searchTurn_cases {s t : State} {cand : State → Option Nat × State}
    {found : State → Nat → Except ErrCode State} (h : searchTurn s cand found = .next t) :
    (s.itercap ≠ 0 ∧ s.candidates = s.itercap.toNat ∧ t = s.latch .searchLimit s.candidates)
    ∨ (¬ (s.itercap ≠ 0 ∧ s.candidates = s.itercap.toNat) ∧
        (((cand s).1 = none ∧ t = { (cand s).2 with candidates := s.candidates + 1 })
        ∨ (∃ r u, (cand s).1 = some r ∧ found { (cand s).2 with candidates := s.candidates + 1 } r = .ok u
            ∧ t = u.complete (s.candidates + 1))
        ∨ (∃ r e, (cand s).1 = some r ∧ found { (cand s).2 with candidates := s.candidates + 1 } r = .error e
            ∧ t = { (cand s).2 with candidates := s.candidates + 1 }.latch e (s.candidates + 1)))) := by
  unfold searchTurn at h
  split at h
  · rename_i hl
    exact .inl ⟨hl.1, hl.2, by simpa using h.symm⟩
  · rename_i hl
    refine .inr ⟨hl, ?_⟩
    dsimp only at h
    split at h
    · rename_i hn
      exact .inl ⟨hn, by simpa using h.symm⟩
    · rename_i r hr
      split at h
      · rename_i u hu
        exact .inr (.inl ⟨r, u, hr, hu, by simpa using h.symm⟩)
      · rename_i e he
        exact .inr (.inr ⟨r, e, hr, he, by simpa using h.symm⟩)

theorem searchTurn_next (s : State) (cand : State → Option Nat × State) (found : State → Nat → Except ErrCode State) :
    ∃ t, searchTurn s cand found = .next t := by
  unfold searchTurn
  split
  · exact ⟨_, rfl⟩
  · dsimp only
    split
    · exact ⟨_, rfl⟩
    · split
      · exact ⟨_, rfl⟩
      · exact ⟨_, rfl⟩

/-! ### A step -/

/-- An engine turn waits, runs the command CMD decodes to, or ends it with ILLEGAL_CMD. -/
theorem engineTurn_cases {s t : State} (h : engineTurn s = .next t) :
    (s.phase = .idle ∧ t = s) ∨ (∃ i, s.phase = .busy ∧ decode s.cmd = .ok i ∧ exec i s = .next t)
      ∨ (∃ r, s.phase = .busy ∧ decode s.cmd = .error r ∧ t = s.latch .illegalCmd 0) := by
  unfold engineTurn at h
  split at h
  · rename_i hp
    exact .inl ⟨hp, by simpa using h.symm⟩
  · rename_i hp
    split at h
    · rename_i i hd
      exact .inr (.inl ⟨i, hp, hd, h⟩)
    · rename_i r hd
      exact .inr (.inr ⟨r, hp, hd, by simpa using h.symm⟩)

/-- A step is an engine turn, a host access inside the block, or reset. -/
theorem step_cases {s t : State} (h : step s = .next t) :
    (s.env.inputs = [] ∧ engineTurn s = .next t)
    ∨ (∃ rest, s.env.inputs = .engine :: rest ∧ engineTurn (s.withInputs rest) = .next t)
    ∨ (∃ a rest, s.env.inputs = .host a :: rest ∧ hostAccess a (s.withInputs rest) = .next t)
    ∨ (∃ rest, s.env.inputs = .reset :: rest ∧ t = (s.withInputs rest).resetEvent) := by
  unfold step at h
  split at h
  · rename_i hi
    exact .inl ⟨hi, h⟩
  · rename_i rest hi
    exact .inr (.inl ⟨rest, hi, h⟩)
  · rename_i a rest hi
    exact .inr (.inr (.inl ⟨a, rest, hi, h⟩))
  · rename_i rest hi
    exact .inr (.inr (.inr ⟨rest, hi, by simpa using h.symm⟩))

/-- A host access inside the block is a host read or a host write at its offset. -/
theorem hostAccess_cases {a : Access} {s t : State} (h : hostAccess a s = .next t) :
    (∃ off n, a = .read (s.params.blockBase + off) n ∧ t = s.hostRead off n)
      ∨ (∃ off n v, a = .write (s.params.blockBase + off) n v ∧ t = s.hostWrite off n v) := by
  cases a with
  | read addr n =>
    simp only [hostAccess] at h
    split at h
    · cases h
    · rename_i hb
      refine .inl ⟨addr - s.params.blockBase, n, ?_, by simpa using h.symm⟩
      congr 1
      omega
  | write addr n v =>
    simp only [hostAccess] at h
    split at h
    · cases h
    · rename_i hb
      refine .inr ⟨addr - s.params.blockBase, n, v, ?_, by simpa using h.symm⟩
      congr 1
      omega

end Sys2Proof.Machine
end

