-- ==== Sys2Proof/Laws/HostProgram.lean ====
section
/-! SUPPORT. What running inputs, `WAIT` and `<command>` alone can do, said once (30_encoding R120). -/

namespace Sys2Proof.Machine

@[simp] theorem runInputs_nil (s : State) : runInputs [] s = .next s := rfl

theorem runInputs_single (i : Input) (s : State) : runInputs [i] s = step (s.withInputs (i :: s.env.inputs)) := by
  simp only [runInputs]
  split <;> rename_i h <;> rw [h]

@[simp] theorem locate_status (n : Nat) : locate n 8 = .status := rfl

/-- The bit WAIT looks at is BUSY. -/
theorem statusWord_bit_busy (s : State) : s.statusWord.getLsbD 0 = s.isBusy := by
  unfold State.statusWord bitWord
  cases s.isBusy <;> cases s.status.done <;> cases s.status.err <;> cases s.status.rej <;> cases s.status.busyacc <;>
    simp

/-- A STATUS read answers STATUS, in every phase, and changes nothing but the record of the port. -/
theorem hostRead_status (s : State) : s.hostRead 8 4 = s.respond (.data s.statusWord) := by
  simp [State.hostRead, Loc.readBlocked, State.readLoc]

/-- A STATUS read as an input. -/
theorem step_readStatus (s : State) (l : List Input) :
    step (s.withInputs (hostReadAt s.params 0x008 :: l)) = .next ((s.withInputs l).respond (.data s.statusWord)) := by
  show hostAccess (.read (s.params.blockBase + 8) 4) (s.withInputs l) = _
  have hb : ¬ s.params.blockBase + 8 < (s.withInputs l).params.blockBase := by
    show ¬ s.params.blockBase + 8 < s.params.blockBase
    omega
  have ho : s.params.blockBase + 8 - (s.withInputs l).params.blockBase = 8 := by
    show s.params.blockBase + 8 - s.params.blockBase = 8
    omega
  simp only [hostAccess, if_neg hb, ho, hostRead_status]
  rfl

/-- A STATUS read shows BUSY = 0 exactly while IDLE. -/
theorem sawNotBusy_readStatus (s : State) : (s.respond (.data s.statusWord)).sawNotBusy = decide (s.phase = .idle) := by
  show (!s.statusWord.getLsbD 0) = _
  rw [statusWord_bit_busy]
  unfold State.isBusy
  cases s.phase <;> rfl

/-- One read of a `WAIT`, after the engine's turns before it: the `WAIT` ends in a state that is IDLE, and goes on in one that is
BUSY, with the read's answer recorded. -/
theorem pseudoWait_cons {n : Nat} {turns : List Nat} {s u : State} (h : runInputs (List.replicate n .engine) s = .next u) :
    pseudoWait (n :: turns) s
      = if u.phase = .idle then some (u.respond (.data u.statusWord)) else pseudoWait turns (u.respond (.data u.statusWord)) := by
  have hr : runInputs [hostReadAt u.params 0x008] u = .next (u.respond (.data u.statusWord)) := by
    rw [runInputs_single]
    exact step_readStatus u u.env.inputs
  simp only [pseudoWait, h, nextOf, Option.bind_some, hr, sawNotBusy_readStatus, decide_eq_true_eq]

/-- A `WAIT` ends with a STATUS read made while IDLE, and with nothing else. -/
theorem pseudoWait_some {turns : List Nat} {s t : State} (h : pseudoWait turns s = some t) :
    ∃ u : State, u.phase = .idle ∧ t = u.respond (.data u.statusWord) := by
  induction turns generalizing s with
  | nil => cases h
  | cons n turns ih =>
    cases hu : runInputs (List.replicate n .engine) s with
    | next u =>
      rw [pseudoWait_cons hu] at h
      split at h
      · rename_i hp
        exact ⟨u, hp, (Option.some.inj h).symm⟩
      · exact ih h
    | fault f => simp [pseudoWait, hu, nextOf] at h
    | refused r => simp [pseudoWait, hu, nextOf] at h

/-- `<command>` alone is the accepted or rejected issue, and a `WAIT` from the state it leaves. -/
theorem pseudoCommand_issue {i : Instr} {turns : List Nat} {s t : State}
    (h : step (s.withInputs (hostWriteAt s.params 0x004 (encode i) :: s.env.inputs)) = .next t) :
    pseudoCommand i turns s = pseudoWait turns t := by
  simp only [pseudoCommand, pseudoIssue, runInputs_single, h, nextOf, Option.bind_some]

end Sys2Proof.Machine
end

