-- ==== Sys2Proof/Laws/Memory.lean ====
section
/-! SUPPORT. Operand memory: a read after a write, what a write leaves alone, and the canonical form every write keeps. -/

namespace Sys2Proof.Machine

/-! ### Reading after writing -/

@[simp] theorem Memory.get?_set_self (m : Memory) (a : Nat) (v : Byte) : (Memory.set m a v).get? a = some v := by
  induction m with
  | nil => simp [Memory.set, Memory.get?]
  | cons c m ih =>
    obtain ⟨b, u⟩ := c
    simp only [Memory.set]
    split
    · simp [Memory.get?]
    · split
      · simp [Memory.get?]
      · rename_i h
        simp [Memory.get?, h, ih]

theorem Memory.get?_set_ne (m : Memory) (a b : Nat) (v : Byte) (h : b ≠ a) :
    (Memory.set m a v).get? b = m.get? b := by
  induction m with
  | nil => simp [Memory.set, Memory.get?, h]
  | cons c m ih =>
    obtain ⟨d, u⟩ := c
    simp only [Memory.set]
    split
    · simp [Memory.get?, h]
    · split
      · rename_i e
        subst e
        simp [Memory.get?, h]
      · simp [Memory.get?, ih]

/-- A run of bytes stored from `a` on reads back byte by byte, and every other byte reads as before. -/
theorem Memory.get?_setBytes (vs : List Byte) (m : Memory) (a b : Nat) :
    (Memory.setBytes m a vs).get? b = if h : a ≤ b ∧ b < a + vs.length then some (vs[b - a]'(by omega)) else m.get? b := by
  induction vs generalizing m a with
  | nil => simp [Memory.setBytes]
  | cons v vs ih =>
    rw [Memory.setBytes, ih]
    by_cases hb : b = a
    · subst hb
      simp
    · by_cases hr : a + 1 ≤ b ∧ b < a + 1 + vs.length
      · have hr' : a ≤ b ∧ b < a + (v :: vs).length := by simp; omega
        rw [dif_pos hr, dif_pos hr']
        have e : b - a = (b - (a + 1)) + 1 := by omega
        simp [e]
      · have hr' : ¬ (a ≤ b ∧ b < a + (v :: vs).length) := by simp; omega
        rw [dif_neg hr, dif_neg hr', Memory.get?_set_ne _ _ _ _ hb]

theorem State.readByte_writeBytes (s : State) (w b : Nat) (vs : List Byte) :
    (s.writeBytes w vs).readByte b
      = if h : 4 * w ≤ b ∧ b < 4 * w + vs.length then vs[b - 4 * w]'(by omega) else s.readByte b := by
  simp only [State.readByte, State.writeBytes, Memory.get?_setBytes]
  split <;> simp

/-! ### The canonical form -/

/-- The tail of a memory in canonical form is in canonical form. -/
theorem Memory.wf_tail {c : Host.Cell} {m : Memory} (h : Memory.wf (c :: m) = true) : Memory.wf m = true := by
  cases m with
  | nil => rfl
  | cons d m =>
    obtain ⟨a, u⟩ := c
    obtain ⟨b, v⟩ := d
    simp only [Memory.wf, Bool.and_eq_true] at h
    exact h.2

/-- A write past the head leaves the head in front. -/
theorem Memory.head_set (m : Memory) (b a : Nat) (u v : Byte) (h : b < a) :
    Memory.wf ((b, u) :: Memory.set m a v) = true → Memory.wf (Memory.set ((b, u) :: m) a v) = true := by
  intro hw
  have h1 : ¬ a < b := by omega
  have h2 : ¬ a = b := by omega
  simpa [Memory.set, h1, h2] using hw

/-- A write keeps the canonical form. -/
theorem Memory.wf_set (m : Memory) (a : Nat) (v : Byte) (h : Memory.wf m = true) : Memory.wf (Memory.set m a v) = true := by
  induction m with
  | nil => rfl
  | cons c m ih =>
    obtain ⟨b, u⟩ := c
    by_cases h1 : a < b
    · simp only [Memory.set, h1, if_true, Memory.wf, Bool.and_eq_true, decide_eq_true_eq]
      exact ⟨trivial, h⟩
    by_cases h2 : a = b
    · subst h2
      cases m with
      | nil => simp [Memory.set, Memory.wf]
      | cons d m =>
        obtain ⟨e, x⟩ := d
        simpa [Memory.set, Memory.wf] using h
    · refine Memory.head_set m b a u v (by omega) ?_
      cases m with
      | nil => simp [Memory.set, Memory.wf]; omega
      | cons d m =>
        obtain ⟨e, x⟩ := d
        have ih' := ih (Memory.wf_tail h)
        have hbe : b < e := by
          simp only [Memory.wf, Bool.and_eq_true, decide_eq_true_eq] at h
          exact h.1
        by_cases h3 : a < e
        · simp only [Memory.set, h3, if_true] at ih' ⊢
          simp only [Memory.wf, Bool.and_eq_true, decide_eq_true_eq] at ih' ⊢
          exact ⟨by omega, ih'⟩
        by_cases h4 : a = e
        · simp only [Memory.set, h4, if_true] at ih' ⊢
          subst h4
          simp only [Memory.wf, lt_self_iff_false, if_false, Bool.and_eq_true, decide_eq_true_eq] at ih' ⊢
          cases m with
          | nil => simp [Memory.wf]; omega
          | cons f m =>
            simp only [Memory.wf, Bool.and_eq_true, decide_eq_true_eq] at ih' ⊢
            exact ⟨hbe, ih'⟩
        · simp only [Memory.set, h3, h4, if_false] at ih' ⊢
          cases hs : Memory.set m a v with
          | nil => simp [Memory.wf]; omega
          | cons f g =>
            rw [hs] at ih'
            simp only [Memory.wf, Bool.and_eq_true, decide_eq_true_eq] at ih' ⊢
            exact ⟨hbe, ih'⟩

/-- A run of writes keeps the canonical form. -/
theorem Memory.wf_setBytes (vs : List Byte) (m : Memory) (a : Nat) (h : Memory.wf m = true) :
    Memory.wf (Memory.setBytes m a vs) = true := by
  induction vs generalizing m a with
  | nil => exact h
  | cons v vs ih => exact ih _ _ (Memory.wf_set m a v h)

/-- An entry of a memory after a write was there before or is the written one. -/
theorem Memory.mem_set (m : Memory) (a : Nat) (v : Byte) (c : Host.Cell) (h : c ∈ Memory.set m a v) :
    c ∈ m ∨ c = (a, v) := by
  induction m with
  | nil => simp [Memory.set] at h; exact .inr h
  | cons d m ih =>
    obtain ⟨b, u⟩ := d
    simp only [Memory.set] at h
    split at h
    · simp only [List.mem_cons] at h ⊢
      tauto
    · split at h
      · simp only [List.mem_cons] at h ⊢
        tauto
      · simp only [List.mem_cons] at h ⊢
        rcases h with h | h
        · exact .inl (.inl h)
        · rcases ih h with h | h
          · exact .inl (.inr h)
          · exact .inr h

/-- The addresses of a memory stay below a bound that the stored run respects. -/
theorem Memory.bound_setBytes (vs : List Byte) (m : Memory) (a n : Nat) (h : ∀ c ∈ m, c.1 < n) (hv : a + vs.length ≤ n) :
    ∀ c ∈ Memory.setBytes m a vs, c.1 < n := by
  induction vs generalizing m a with
  | nil => exact h
  | cons v vs ih =>
    simp only [List.length_cons] at hv
    refine ih _ _ (fun c hc => ?_) (by omega)
    rcases Memory.mem_set m a v c hc with hc | hc
    · exact h c hc
    · subst hc
      show a < n
      omega

/-- Every store of the engine and of the host keeps the canonical form. -/
theorem State.writeBytes_wf (s : State) (w : Nat) (vs : List Byte) (h : s.om.wf = true) :
    (s.writeBytes w vs).om.wf = true := Memory.wf_setBytes vs s.om (4 * w) h

theorem State.writeWords_wf (s : State) (w : Nat) (ws : List Word) (h : s.om.wf = true) :
    (s.writeWords w ws).om.wf = true := Memory.wf_setBytes _ s.om (4 * w) h

/-- The memory right after reset is in canonical form. -/
theorem reset_om_wf : State.reset.om.wf = true := rfl

/-- A word is stored as four bytes. -/
theorem bytesOfWord_length (w : Word) : (bytesOfWord w).length = 4 := rfl

theorem wordsOfNat_length (v k : Nat) : (wordsOfNat v k).length = k := by
  induction k generalizing v with
  | zero => rfl
  | succ k ih => simp [wordsOfNat, ih]

theorem flatMap_bytesOfWord_length (ws : List Word) : (ws.flatMap bytesOfWord).length = 4 * ws.length := by
  induction ws with
  | nil => rfl
  | cons w ws ih => simp [List.flatMap_cons, bytesOfWord_length, ih]; omega

end Sys2Proof.Machine
end

