-- ==== Sys2Proof/Laws/Operands.lean ====
section
/-! SUPPORT. Operands in operand memory: what each write leaves to read, word by word and layout by layout, and the source checks
as one condition. -/

namespace Sys2Proof.Machine

/-! ### Words -/

/-- A word from its four bytes. -/
theorem word_of_bytes (w : Word) :
    w.extractLsb' 24 8 ++ w.extractLsb' 16 8 ++ w.extractLsb' 8 8 ++ w.extractLsb' 0 8 = w := by
  apply BitVec.eq_of_getLsbD_eq
  intro i hi
  rw [BitVec.getLsbD_append, BitVec.getLsbD_append, BitVec.getLsbD_append]
  simp only [BitVec.getLsbD_extractLsb']
  by_cases h0 : i < 8
  · simp [h0]
  by_cases h1 : i - 8 < 8
  · have e : 8 + (i - 8) = i := by omega
    simp [h0, h1, e]
  by_cases h2 : i - 8 - 8 < 8
  · have e : 16 + (i - 8 - 8) = i := by omega
    simp [h0, h1, h2, e]
  · have e : 24 + (i - 8 - 8 - 8) = i := by omega
    have h3 : i - 8 - 8 - 8 < 8 := by omega
    simp [h0, h1, h2, h3, e]

/-- Byte `4·k + j` of a list of words is byte `j` of word `k`. -/
theorem bytes_getElem? (ws : List Word) (k j : Nat) (hj : j < 4) :
    (ws.flatMap bytesOfWord)[4 * k + j]? = (ws[k]?).map (fun w => w.extractLsb' (8 * j) 8) := by
  induction ws generalizing k with
  | nil => simp
  | cons w ws ih =>
    rw [List.flatMap_cons]
    cases k with
    | zero =>
      rw [List.getElem?_append_left (by rw [bytesOfWord_length]; omega)]
      interval_cases j <;> rfl
    | succ k =>
      rw [List.getElem?_append_right (by rw [bytesOfWord_length]; omega), bytesOfWord_length]
      have e : 4 * (k + 1) + j - 4 = 4 * k + j := by omega
      rw [e, ih]
      rfl

/-- A byte outside the words stored reads as before. -/
theorem readByte_writeWords_out (s : State) (w b : Nat) (ws : List Word) (h : ¬ (4 * w ≤ b ∧ b < 4 * (w + ws.length))) :
    (s.writeWords w ws).readByte b = s.readByte b := by
  rw [State.writeWords, State.readByte_writeBytes, dif_neg]
  rw [flatMap_bytesOfWord_length]
  omega

/-- A byte of a stored word. -/
theorem readByte_writeWords_in (s : State) (w k j : Nat) (ws : List Word) (hk : k < ws.length) (hj : j < 4) :
    (s.writeWords w ws).readByte (4 * (w + k) + j) = ws[k].extractLsb' (8 * j) 8 := by
  have hl : (ws.flatMap bytesOfWord).length = 4 * ws.length := flatMap_bytesOfWord_length ws
  rw [State.writeWords, State.readByte_writeBytes, dif_pos (by omega)]
  have h := bytes_getElem? ws k j hj
  have e : 4 * (w + k) + j - 4 * w = 4 * k + j := by omega
  rw [List.getElem?_eq_getElem (by omega : 4 * k + j < (ws.flatMap bytesOfWord).length), List.getElem?_eq_getElem hk] at h
  simp only [e]
  simpa using h

/-- A stored word reads back. -/
theorem readWord_writeWords_in (s : State) (w k : Nat) (ws : List Word) (hk : k < ws.length) :
    (s.writeWords w ws).readWord (w + k) = ws[k] := by
  have h0 := readByte_writeWords_in s w k 0 ws hk (by omega)
  have h1 := readByte_writeWords_in s w k 1 ws hk (by omega)
  have h2 := readByte_writeWords_in s w k 2 ws hk (by omega)
  have h3 := readByte_writeWords_in s w k 3 ws hk (by omega)
  rw [State.readWord, h3, h2, h1]
  rw [Nat.add_zero] at h0
  rw [h0]
  exact word_of_bytes _

/-- A word outside the words stored reads as before. -/
theorem readWord_writeWords_out (s : State) (w v : Nat) (ws : List Word) (h : ¬ (w ≤ v ∧ v < w + ws.length)) :
    (s.writeWords w ws).readWord v = s.readWord v := by
  simp only [State.readWord]
  rw [readByte_writeWords_out _ _ _ _ (by omega), readByte_writeWords_out _ _ _ _ (by omega),
    readByte_writeWords_out _ _ _ _ (by omega), readByte_writeWords_out _ _ _ _ (by omega)]

/-! ### Numbers -/

/-- A number read from `k` words has at most `32·k` bits. -/
theorem readNat_lt (s : State) (w k : Nat) : s.readNat w k < 2 ^ (32 * k) := by
  induction k generalizing w with
  | zero => simp [State.readNat]
  | succ k ih =>
    have h := ih (w + 1)
    have hw := (s.readWord w).isLt
    have he : 2 ^ (32 * (k + 1)) = 2 ^ 32 * 2 ^ (32 * k) := by rw [← Nat.pow_add]; congr 1; omega
    rw [State.readNat, he]
    calc (s.readWord w).toNat + 2 ^ 32 * s.readNat (w + 1) k
        < 2 ^ 32 + 2 ^ 32 * s.readNat (w + 1) k := by omega
      _ = 2 ^ 32 * (s.readNat (w + 1) k + 1) := by ring
      _ ≤ 2 ^ 32 * 2 ^ (32 * k) := Nat.mul_le_mul_left _ h

/-- Two states with the same words read the same number. -/
theorem readNat_congr (s t : State) (w k : Nat) (h : ∀ i, i < k → s.readWord (w + i) = t.readWord (w + i)) :
    s.readNat w k = t.readNat w k := by
  induction k generalizing w with
  | zero => rfl
  | succ k ih =>
    have h0 := h 0 (by omega)
    rw [Nat.add_zero] at h0
    rw [State.readNat, State.readNat, h0, ih (w + 1)]
    intro i hi
    have := h (i + 1) (by omega)
    rwa [show w + (i + 1) = w + 1 + i by omega] at this

/-- Words that hold the words of a number hold the number. -/
theorem readNat_of_words (s : State) (w v k : Nat)
    (h : ∀ i (hi : i < (wordsOfNat v k).length), s.readWord (w + i) = (wordsOfNat v k)[i]) :
    s.readNat w k = v % 2 ^ (32 * k) := by
  induction k generalizing w v with
  | zero => simp [State.readNat, Nat.mod_one]
  | succ k ih =>
    have h0 := h 0 (by simp [wordsOfNat])
    simp only [wordsOfNat, Nat.add_zero, List.getElem_cons_zero] at h0
    have hr := ih (w + 1) (v >>> 32) (fun i hi => by
      have := h (i + 1) (by simpa [wordsOfNat] using hi)
      simpa [wordsOfNat, show w + (i + 1) = w + 1 + i by omega] using this)
    have he : 32 * (k + 1) = 32 + 32 * k := by omega
    rw [State.readNat, h0, hr, BitVec.toNat_ofNat, Nat.shiftRight_eq_div_pow, he, Nat.pow_add]
    exact (Nat.mod_mul).symm

/-- A number stored in `k` words reads back. -/
theorem readNat_writeWords (s : State) (w v k : Nat) :
    (s.writeWords w (wordsOfNat v k)).readNat w k = v % 2 ^ (32 * k) :=
  readNat_of_words _ _ _ _ (fun i hi => readWord_writeWords_in s w i _ hi)

/-! ### Polynomials, vectors and field elements -/

/-- `n` bits fit their words. -/
theorem bits_le_words (n : Nat) : n ≤ 32 * wordsFor n := by
  simp only [wordsFor]
  omega

theorem mod_words (v n : Nat) : v % 2 ^ n % 2 ^ (32 * wordsFor n) = v % 2 ^ n := by
  apply Nat.mod_eq_of_lt
  calc v % 2 ^ n < 2 ^ n := Nat.mod_lt _ (Nat.two_pow_pos n)
    _ ≤ 2 ^ (32 * wordsFor n) := Nat.pow_le_pow_right (by decide) (bits_le_words n)

@[simp] theorem setLen_readWord (s : State) (d : DReg) (n w : Nat) : (s.setLen d n).readWord w = s.readWord w := rfl
@[simp] theorem setLen_readNat (s : State) (d : DReg) (n w k : Nat) : (s.setLen d n).readNat w k = s.readNat w k :=
  readNat_congr _ _ _ _ (fun _ _ => rfl)
@[simp] theorem setShape_readWord (s : State) (d : DReg) (r c w : Nat) : (s.setShape d r c).readWord w = s.readWord w := rfl
@[simp] theorem setShape_readNat (s : State) (d : DReg) (r c w k : Nat) :
    (s.setShape d r c).readNat w k = s.readNat w k := readNat_congr _ _ _ _ (fun _ _ => rfl)

/-- A descriptor register reads as it was written, and the others as before. -/
theorem setD_D (s : State) (d e : DReg) (v : Desc) : (s.setD d v).D e = if e = d then v else s.D e := by
  simp only [State.D, State.setD, Vector.getElem_set]
  by_cases h : e = d
  · simp [h]
  · have : d.val ≠ e.val := fun x => h (Fin.ext x.symm)
    simp [h, this]

/-- A scalar register reads as it was written, and the others as before. -/
theorem setS_S (s : State) (k j : SReg) (v : Word) : (s.setS k v).S j = if j = k then v else s.S j := by
  simp only [State.S, State.setS, Vector.getElem_set]
  by_cases h : j = k
  · simp [h]
  · have : k.val ≠ j.val := fun x => h (Fin.ext x.symm)
    simp [h, this]

@[simp] theorem writeWords_D (s : State) (w : Nat) (ws : List Word) (d : DReg) : (s.writeWords w ws).D d = s.D d := rfl
@[simp] theorem writeBytes_D (s : State) (w : Nat) (vs : List Byte) (d : DReg) : (s.writeBytes w vs).D d = s.D d := rfl

/-- What `WritePoly` leaves in the descriptors (R84). -/
theorem putPoly_D (s : State) (d e : DReg) (v len : Nat) :
    (s.putPoly d v len).D e = if e = d then { s.D d with len := BitVec.ofNat 32 len } else s.D e := by
  rw [State.putPoly, State.setLen, setD_D]
  rfl

/-- The words `WritePoly` stores (R84). -/
theorem putPoly_readNat (s : State) (d : DReg) (v len : Nat) :
    (s.putPoly d v len).readNat (s.base d) (wordsFor len) = v % 2 ^ len := by
  rw [State.putPoly, setLen_readNat, readNat_writeWords, mod_words]

/-- What `WritePoly` stored is what `ReadPoly` reads, for a length that fits LEN (R84). -/
theorem putPoly_poly (s : State) (d : DReg) (v len : Nat) (h : len < 2 ^ 32) : (s.putPoly d v len).poly d = v % 2 ^ len := by
  have hd := putPoly_D s d d v len
  rw [if_pos rfl] at hd
  have hb : (s.putPoly d v len).base d = s.base d := by simp [State.base, hd]
  have hl : (s.putPoly d v len).len d = len := by
    simp only [State.len, hd, BitVec.toNat_ofNat]
    exact Nat.mod_eq_of_lt h
  rw [State.poly, hb, hl, putPoly_readNat]
  exact Nat.mod_mod _ _

/-- A byte outside the stored words reads as before (R84). -/
theorem putPoly_readByte (s : State) (d : DReg) (v len a : Nat)
    (h : ¬ (4 * s.base d ≤ a ∧ a < 4 * (s.base d + wordsFor len))) : (s.putPoly d v len).readByte a = s.readByte a := by
  have hw := readByte_writeWords_out s (s.base d) a (wordsOfNat (v % 2 ^ len) (wordsFor len)) (by
    rw [wordsOfNat_length]
    exact h)
  exact hw

/-! ### Goppa polynomials -/

theorem goppaStored_length (a : List Nat) : (goppaStored a).length = goppaLen a := by
  cases a with
  | nil => rfl
  | cons x l => simp [goppaStored, goppaLen]

/-- What `WriteGoppa` leaves in the descriptors (R89). -/
theorem putGoppa_D (s : State) (d e : DReg) (a : List Nat) :
    (s.putGoppa d a).D e = if e = d then { s.D d with len := BitVec.ofNat 32 (goppaLen a) } else s.D e := by
  rw [State.putGoppa, State.setLen, setD_D]
  rfl

/-- The words `WriteGoppa` stores (R89). -/
theorem putGoppa_readWord (s : State) (d : DReg) (a : List Nat) (i : Nat) (hi : i < goppaLen a) :
    (s.putGoppa d a).readWord (s.base d + i) = BitVec.ofNat 32 (a.getD i 0) := by
  have hl : i < ((goppaStored a).map (BitVec.ofNat 32)).length := by simpa [goppaStored_length] using hi
  rw [State.putGoppa, setLen_readWord, readWord_writeWords_in _ _ _ _ hl, List.getElem_map]
  congr 1
  cases a with
  | nil =>
    have : i = 0 := by simp [goppaLen] at hi; omega
    subst this
    rfl
  | cons x l =>
    have h2 : i < (x :: l).length := by simpa [goppaLen] using hi
    simp [goppaStored, List.getD_eq_getElem?_getD, List.getElem?_eq_getElem h2]

/-- A byte outside the stored words reads as before (R89). -/
theorem putGoppa_readByte (s : State) (d : DReg) (a : List Nat) (b : Nat)
    (h : ¬ (4 * s.base d ≤ b ∧ b < 4 * (s.base d + goppaLen a))) : (s.putGoppa d a).readByte b = s.readByte b := by
  have hw := readByte_writeWords_out s (s.base d) b ((goppaStored a).map (BitVec.ofNat 32)) (by
    rw [List.length_map, goppaStored_length]
    exact h)
  exact hw

/-! ### Matrices -/

/-- An entry of a list of blocks of one length. -/
theorem flatMap_blocks {α β : Type} (l : List α) (f : α → List β) (c : Nat) (hf : ∀ x ∈ l, (f x).length = c) (i j : Nat)
    (hj : j < c) : (l.flatMap f)[i * c + j]? = (l[i]?).bind (fun x => (f x)[j]?) := by
  induction l generalizing i with
  | nil => simp
  | cons x l ih =>
    have hx := hf x (by simp)
    rw [List.flatMap_cons]
    cases i with
    | zero =>
      rw [List.getElem?_append_left (by omega)]
      simp
    | succ i =>
      have e : (i + 1) * c + j - c = i * c + j := by
        rw [Nat.succ_mul]
        omega
      rw [List.getElem?_append_right (by rw [hx, Nat.succ_mul]; omega), hx, e, ih (fun y hy => hf y (by simp [hy]))]
      rfl

theorem flatMap_blocks_length {α β : Type} (l : List α) (f : α → List β) (c : Nat) (hf : ∀ x ∈ l, (f x).length = c) :
    (l.flatMap f).length = l.length * c := by
  induction l with
  | nil => simp
  | cons x l ih =>
    rw [List.flatMap_cons, List.length_append, hf x (by simp), ih (fun y hy => hf y (by simp [hy])), List.length_cons,
      Nat.succ_mul]
    omega

/-- What `WriteMatM` leaves in the descriptors (R88). -/
theorem putMatM_D (s : State) (d e : DReg) (m : List (List Nat)) (r c : Nat) :
    (s.putMatM d m r c).D e = if e = d then { s.D d with rows := BitVec.ofNat 32 r, cols := BitVec.ofNat 32 c } else s.D e := by
  rw [State.putMatM, State.setShape, setD_D]
  rfl

/-- The cells `WriteMatM` stores (R88). -/
theorem putMatM_readWord (s : State) (d : DReg) (m : List (List Nat)) (r c i j : Nat) (hi : i < r) (hj : j < c) :
    (s.putMatM d m r c).readWord (s.base d + i * c + j) = BitVec.ofNat 32 (cellAt m i j) := by
  have hf : ∀ x ∈ List.range r, ((List.range c).map (fun j => BitVec.ofNat 32 (cellAt m x j))).length = c := by simp
  have hg := flatMap_blocks (List.range r) (fun x => (List.range c).map (fun j => BitVec.ofNat 32 (cellAt m x j))) c hf i j hj
  rw [List.getElem?_range hi] at hg
  simp only [Option.bind_some, List.getElem?_map, List.getElem?_range hj, Option.map_some] at hg
  obtain ⟨hlt, hv⟩ := List.getElem?_eq_some_iff.mp hg
  have hw := readWord_writeWords_in s (s.base d) (i * c + j) _ hlt
  rw [hv, ← Nat.add_assoc] at hw
  exact hw

/-- A byte outside the stored words reads as before (R88). -/
theorem putMatM_readByte (s : State) (d : DReg) (m : List (List Nat)) (r c b : Nat)
    (h : ¬ (4 * s.base d ≤ b ∧ b < 4 * (s.base d + r * c))) : (s.putMatM d m r c).readByte b = s.readByte b := by
  have hw := readByte_writeWords_out s (s.base d) b
    ((List.range r).flatMap (fun i => (List.range c).map (fun j => BitVec.ofNat 32 (cellAt m i j)))) (by
      rw [flatMap_blocks_length _ _ c (by simp), List.length_range]
      exact h)
  exact hw

/-- What `WriteMat2` leaves in the descriptors (R87). -/
theorem putMat2_D (s : State) (d e : DReg) (m : List Nat) (r c : Nat) :
    (s.putMat2 d m r c).D e = if e = d then { s.D d with rows := BitVec.ofNat 32 r, cols := BitVec.ofNat 32 c } else s.D e := by
  rw [State.putMat2, State.setShape, setD_D]
  rfl

/-- The row words `WriteMat2` stores (R87). -/
theorem putMat2_readNat (s : State) (d : DReg) (m : List Nat) (r c i : Nat) (hi : i < r) :
    (s.putMat2 d m r c).readNat (s.base d + i * wordsFor c) (wordsFor c) = rowAt m i % 2 ^ c := by
  rw [← mod_words (rowAt m i) c, State.putMat2, setShape_readNat]
  apply readNat_of_words
  intro j hj
  rw [wordsOfNat_length] at hj
  have hf : ∀ x ∈ List.range r, (wordsOfNat (rowAt m x % 2 ^ c) (wordsFor c)).length = wordsFor c := by
    simp [wordsOfNat_length]
  have hg := flatMap_blocks (List.range r) (fun x => wordsOfNat (rowAt m x % 2 ^ c) (wordsFor c)) (wordsFor c) hf i j hj
  rw [List.getElem?_range hi] at hg
  simp only [Option.bind_some] at hg
  have hk : (wordsOfNat (rowAt m i % 2 ^ c) (wordsFor c))[j]?
      = some ((wordsOfNat (rowAt m i % 2 ^ c) (wordsFor c))[j]'(by rw [wordsOfNat_length]; exact hj)) :=
    List.getElem?_eq_getElem _
  rw [hk] at hg
  obtain ⟨hlt, hv⟩ := List.getElem?_eq_some_iff.mp hg
  have hw := readWord_writeWords_in s (s.base d) (i * wordsFor c + j) _ hlt
  rw [hv, ← Nat.add_assoc] at hw
  exact hw

/-- A byte outside the stored words reads as before (R87). -/
theorem putMat2_readByte (s : State) (d : DReg) (m : List Nat) (r c b : Nat)
    (h : ¬ (4 * s.base d ≤ b ∧ b < 4 * (s.base d + r * wordsFor c))) : (s.putMat2 d m r c).readByte b = s.readByte b := by
  have hw := readByte_writeWords_out s (s.base d) b
    ((List.range r).flatMap (fun i => wordsOfNat (rowAt m i % 2 ^ c) (wordsFor c))) (by
      rw [flatMap_blocks_length _ _ (wordsFor c) (by simp [wordsOfNat_length]), List.length_range]
      exact h)
  exact hw

/-! ### Byte images -/

/-- The words of an image hold its bytes. -/
theorem image_bytes (b : Nat) : b + (4 * imageWords b - b) = 4 * imageWords b := by
  simp only [imageWords]
  omega

/-- What `WriteImage` leaves in the descriptors (R90). -/
theorem putImage_D (s : State) (d e : DReg) (bytes : List Byte) :
    (s.putImage d bytes).D e = if e = d then { s.D d with len := BitVec.ofNat 32 bytes.length } else s.D e := by
  rw [State.putImage, State.setLen, setD_D]
  rfl

/-- The bytes `WriteImage` stores: the image, and zero bytes to the end of its last word (R90). -/
theorem putImage_readByte_in (s : State) (d : DReg) (bytes : List Byte) (k : Nat) (hk : k < 4 * imageWords bytes.length) :
    (s.putImage d bytes).readByte (4 * s.base d + k) = bytes.getD k 0 := by
  have hl : (bytes ++ List.replicate (4 * imageWords bytes.length - bytes.length) (0 : Byte)).length
      = 4 * imageWords bytes.length := by
    rw [List.length_append, List.length_replicate, image_bytes]
  have hr := State.readByte_writeBytes s (s.base d) (4 * s.base d + k)
    (bytes ++ List.replicate (4 * imageWords bytes.length - bytes.length) (0 : Byte))
  rw [dif_pos (by rw [hl]; omega)] at hr
  refine hr.trans ?_
  have e : 4 * s.base d + k - 4 * s.base d = k := by omega
  simp only [e, List.getElem_append]
  by_cases h : k < bytes.length
  · rw [dif_pos h]
    simp [List.getD_eq_getElem?_getD, List.getElem?_eq_getElem h]
  · rw [dif_neg h]
    simp [List.getD_eq_getElem?_getD, List.getElem?_eq_none (by omega : bytes.length ≤ k)]

/-- A byte outside the stored words reads as before (R90). -/
theorem putImage_readByte (s : State) (d : DReg) (bytes : List Byte) (b : Nat)
    (h : ¬ (4 * s.base d ≤ b ∧ b < 4 * (s.base d + imageWords bytes.length))) :
    (s.putImage d bytes).readByte b = s.readByte b := by
  have hl : (bytes ++ List.replicate (4 * imageWords bytes.length - bytes.length) (0 : Byte)).length
      = 4 * imageWords bytes.length := by
    rw [List.length_append, List.length_replicate, image_bytes]
  have hr := State.readByte_writeBytes s (s.base d) b
    (bytes ++ List.replicate (4 * imageWords bytes.length - bytes.length) (0 : Byte))
  rw [dif_neg (by rw [hl]; omega)] at hr
  exact hr

/-! ### Source checks -/

/-- The two checks of a source are one condition. -/
theorem checkSrc_eq (s : State) (d : DReg) (n : Nat) : s.checkSrc d n = check (s.inOm d ∧ n ≤ s.cap d) .bounds :=
  check_and _ _ _

end Sys2Proof.Machine
end

