-- ==== Sys2Proof/Laws/Outcome.lean ====
section
/-! SUPPORT. From a command's checks in the order of its definition to its `Outcome`. -/

namespace Sys2Proof.Machine

theorem Outcome_nil (i : Instr) (s : State) (last : Prop) : Outcome i s [] last ↔ last := Iff.rfl

/-- One check of a command that ends with `finish`. -/
theorem Outcome_check {i : Instr} {s : State} {c : Prop} [Decidable c] {e : ErrCode} {r : Unit → Except ErrCode State}
    {rest : List (Prop × ErrCode)} {last : Prop} (h : exec i s = finish s (check c e >>= r))
    (k : c → exec i s = finish s (r ()) → Outcome i s rest last) : Outcome i s ((c, e) :: rest) last := by
  rw [check_bind] at h
  refine ⟨fun hc => ?_, fun hc => ?_⟩
  · rw [if_neg hc] at h
    exact h
  · rw [if_pos hc] at h
    exact k hc h

/-- The last check before a command's last part, for a command that ends with `afterChecks`. -/
theorem Outcome_afterCheck {i : Instr} {s : State} {c : Prop} [Decidable c] {e : ErrCode} {x : Result}
    {rest : List (Prop × ErrCode)} {last : Prop} (h : exec i s = afterChecks s (check c e) x)
    (k : c → exec i s = x → Outcome i s rest last) : Outcome i s ((c, e) :: rest) last := by
  refine ⟨fun hc => ?_, fun hc => ?_⟩
  · rw [check_of_not e hc] at h
    exact h
  · rw [check_of e hc] at h
    exact k hc h

/-- One check of a command that ends with `afterChecks`. -/
theorem Outcome_afterChecks {i : Instr} {s : State} {c : Prop} [Decidable c] {e : ErrCode} {r : Unit → Except ErrCode Unit}
    {x : Result} {rest : List (Prop × ErrCode)} {last : Prop} (h : exec i s = afterChecks s (check c e >>= r) x)
    (k : c → exec i s = afterChecks s (r ()) x → Outcome i s rest last) : Outcome i s ((c, e) :: rest) last := by
  rw [check_bind] at h
  refine ⟨fun hc => ?_, fun hc => ?_⟩
  · rw [if_neg hc] at h
    exact h
  · rw [if_pos hc] at h
    exact k hc h

/-- A command that ends well after all its checks: a `Completes`. -/
theorem Completes_of {i : Instr} {s t : State} {post : State → Prop} (h : exec i s = .next t) (hp : post t) :
    Completes i s post := ⟨t, h, hp⟩

/-- Completion has the effect the shared operations allow: the state before it differs in the listed places only. -/
theorem Effect_of {s u : State} {j : Nat} {scalars : List SReg} {descs : List DReg} {stored : List (Nat × Nat)}
    (hst : u.status = s.status) (hc : u.params = s.params ∧ u.cmd = s.cmd ∧ u.ie = s.ie ∧ u.errcmd = s.errcmd
      ∧ u.cmdseq = s.cmdseq ∧ u.itercap = s.itercap)
    (hs : ∀ k, k ∉ scalars → u.S k = s.S k) (hd : ∀ d, d ∉ descs → u.D d = s.D d)
    (hm : ∀ a, (∀ r ∈ stored, ¬ inWords a r.1 r.2) → u.readByte a = s.readByte a)
    (hp : u.env.inputs = s.env.inputs ∧ u.env.response = s.env.response ∧ u.env.resets = s.env.resets)
    (hn : j = 0 → u.env = s.env) : Effect s (u.complete j) j scalars descs stored :=
  { ended := ⟨rfl, rfl⟩
    status := by simp [State.complete, hst]
    itercnt := rfl
    control := hc
    scalarsKept := hs
    descsKept := hd
    memory := hm
    port := hp
    noDraw := hn }

end Sys2Proof.Machine
end

