-- ==== Sys2Proof/Laws/PerInstr.lean ====
section
/-! SUPPORT. For every command: its encoding carries its opcode of the opcode map (30_encoding R117), and its reserved bits are 0
(R110). -/

namespace Sys2Proof

/-- The opcode of a command (30_encoding R117). -/
def Instr.opcode : Instr → Nat
  | .nop => 0x00
  | .bpAdd .. => 0x10
  | .bpMulc .. => 0x11
  | .bpMulk .. => 0x12
  | .bpSqr .. => 0x13
  | .bpDiv .. => 0x14
  | .bpRem .. => 0x15
  | .bpGcd .. => 0x16
  | .bpRedt .. => 0x17
  | .bpRedp .. => 0x18
  | .bpDeg .. => 0x19
  | .bpBget .. => 0x1A
  | .bpBset .. => 0x1B
  | .bpBclr .. => 0x1C
  | .bpBxor .. => 0x1D
  | .bpIrr .. => 0x1E
  | .sfCfg .. => 0x20
  | .sfAdd .. => 0x21
  | .sfMul .. => 0x22
  | .sfSqr .. => 0x23
  | .sfExp .. => 0x24
  | .sfInv .. => 0x25
  | .sfSqrt .. => 0x26
  | .sfIsel .. => 0x27
  | .efCfg .. => 0x30
  | .efAdd .. => 0x31
  | .efMul .. => 0x32
  | .efSqr .. => 0x33
  | .efInv .. => 0x34
  | .efSqrt .. => 0x35
  | .efTrace .. => 0x36
  | .efHtrace .. => 0x37
  | .efSolveq .. => 0x38
  | .efGetp .. => 0x39
  | .efRoot .. => 0x3A
  | .efCob .. => 0x3B
  | .efConv .. => 0x3C
  | .efFlush => 0x3D
  | .m2Mul .. => 0x40
  | .m2Vmul .. => 0x41
  | .m2Mulv .. => 0x42
  | .m2Inv .. => 0x43
  | .m2Trn .. => 0x44
  | .m2Isz .. => 0x45
  | .m2Dec .. => 0x46
  | .m2Enc .. => 0x47
  | .m2mInv .. => 0x50
  | .m2mRmulm .. => 0x51
  | .m2mRmulv .. => 0x52
  | .m2mLmulv .. => 0x53
  | .m2mLmulm .. => 0x54
  | .m2mDec .. => 0x55
  | .m2mEnc .. => 0x56
  | .gpAdd .. => 0x60
  | .gpSmul .. => 0x61
  | .gpMul .. => 0x62
  | .gpDiv .. => 0x63
  | .gpMod .. => 0x64
  | .gpGcd .. => 0x65
  | .gpMmul .. => 0x66
  | .gpMinv .. => 0x67
  | .gpMdiv .. => 0x68
  | .gpSqm .. => 0x69
  | .gpSqrtm .. => 0x6A
  | .gpIrr .. => 0x6B
  | .gpDeg .. => 0x6C
  | .gpMono .. => 0x6D
  | .gpAddm .. => 0x6E

/-- The encoding of a command carries its opcode, with every reserved bit 0. -/
def Laws.Opcode.Statement (i : Instr) : Prop :=
  opcOf (encode i) = i.opcode ∧ f5Of (encode i) = 0 ∧ rsvOf (encode i) = 0

theorem Laws.Opcode.nop : Laws.Opcode.Statement (.nop) :=
  ⟨opcOf_pack .., f5Of_pack .., rsvOf_pack ..⟩

theorem Laws.Opcode.bpAdd (dst : DReg) (a : DReg) (b : DReg) : Laws.Opcode.Statement (.bpAdd dst a b) :=
  ⟨opcOf_pack .., f5Of_pack .., rsvOf_pack ..⟩

theorem Laws.Opcode.bpMulc (dst : DReg) (a : DReg) (b : DReg) : Laws.Opcode.Statement (.bpMulc dst a b) :=
  ⟨opcOf_pack .., f5Of_pack .., rsvOf_pack ..⟩

theorem Laws.Opcode.bpMulk (dst : DReg) (a : DReg) (b : DReg) : Laws.Opcode.Statement (.bpMulk dst a b) :=
  ⟨opcOf_pack .., f5Of_pack .., rsvOf_pack ..⟩

theorem Laws.Opcode.bpSqr (dst : DReg) (a : DReg) (alg : SqrAlg) : Laws.Opcode.Statement (.bpSqr dst a alg) :=
  ⟨opcOf_pack .., f5Of_pack .., rsvOf_pack ..⟩

theorem Laws.Opcode.bpDiv (quot : DReg) (a : DReg) (b : DReg) (rem : DReg) : Laws.Opcode.Statement (.bpDiv quot a b rem) :=
  ⟨opcOf_pack .., f5Of_pack .., rsvOf_pack ..⟩

theorem Laws.Opcode.bpRem (dst : DReg) (a : DReg) (b : DReg) : Laws.Opcode.Statement (.bpRem dst a b) :=
  ⟨opcOf_pack .., f5Of_pack .., rsvOf_pack ..⟩

theorem Laws.Opcode.bpGcd (dst : DReg) (a : DReg) (b : DReg) : Laws.Opcode.Statement (.bpGcd dst a b) :=
  ⟨opcOf_pack .., f5Of_pack .., rsvOf_pack ..⟩

theorem Laws.Opcode.bpRedt (dst : DReg) (a : DReg) (base : SReg) : Laws.Opcode.Statement (.bpRedt dst a base) :=
  ⟨opcOf_pack .., f5Of_pack .., rsvOf_pack ..⟩

theorem Laws.Opcode.bpRedp (dst : DReg) (a : DReg) (base : SReg) : Laws.Opcode.Statement (.bpRedp dst a base) :=
  ⟨opcOf_pack .., f5Of_pack .., rsvOf_pack ..⟩

theorem Laws.Opcode.bpDeg (dst : SReg) (a : DReg) : Laws.Opcode.Statement (.bpDeg dst a) :=
  ⟨opcOf_pack .., f5Of_pack .., rsvOf_pack ..⟩

theorem Laws.Opcode.bpBget (dst : SReg) (a : DReg) (index : SReg) : Laws.Opcode.Statement (.bpBget dst a index) :=
  ⟨opcOf_pack .., f5Of_pack .., rsvOf_pack ..⟩

theorem Laws.Opcode.bpBset (poly : DReg) (index : SReg) : Laws.Opcode.Statement (.bpBset poly index) :=
  ⟨opcOf_pack .., f5Of_pack .., rsvOf_pack ..⟩

theorem Laws.Opcode.bpBclr (poly : DReg) (index : SReg) : Laws.Opcode.Statement (.bpBclr poly index) :=
  ⟨opcOf_pack .., f5Of_pack .., rsvOf_pack ..⟩

theorem Laws.Opcode.bpBxor (poly : DReg) (index : SReg) : Laws.Opcode.Statement (.bpBxor poly index) :=
  ⟨opcOf_pack .., f5Of_pack .., rsvOf_pack ..⟩

theorem Laws.Opcode.bpIrr (dst : SReg) (a : DReg) : Laws.Opcode.Statement (.bpIrr dst a) :=
  ⟨opcOf_pack .., f5Of_pack .., rsvOf_pack ..⟩

theorem Laws.Opcode.sfCfg (m : SReg) (poly : SReg) : Laws.Opcode.Statement (.sfCfg m poly) :=
  ⟨opcOf_pack .., f5Of_pack .., rsvOf_pack ..⟩

theorem Laws.Opcode.sfAdd (dst : SReg) (a : SReg) (b : SReg) : Laws.Opcode.Statement (.sfAdd dst a b) :=
  ⟨opcOf_pack .., f5Of_pack .., rsvOf_pack ..⟩

theorem Laws.Opcode.sfMul (dst : SReg) (a : SReg) (b : SReg) : Laws.Opcode.Statement (.sfMul dst a b) :=
  ⟨opcOf_pack .., f5Of_pack .., rsvOf_pack ..⟩

theorem Laws.Opcode.sfSqr (dst : SReg) (a : SReg) : Laws.Opcode.Statement (.sfSqr dst a) :=
  ⟨opcOf_pack .., f5Of_pack .., rsvOf_pack ..⟩

theorem Laws.Opcode.sfExp (dst : SReg) (a : SReg) (k : SReg) : Laws.Opcode.Statement (.sfExp dst a k) :=
  ⟨opcOf_pack .., f5Of_pack .., rsvOf_pack ..⟩

theorem Laws.Opcode.sfInv (dst : SReg) (a : SReg) : Laws.Opcode.Statement (.sfInv dst a) :=
  ⟨opcOf_pack .., f5Of_pack .., rsvOf_pack ..⟩

theorem Laws.Opcode.sfSqrt (dst : SReg) (a : SReg) : Laws.Opcode.Statement (.sfSqrt dst a) :=
  ⟨opcOf_pack .., f5Of_pack .., rsvOf_pack ..⟩

theorem Laws.Opcode.sfIsel (dst : SReg) (a : SReg) : Laws.Opcode.Statement (.sfIsel dst a) :=
  ⟨opcOf_pack .., f5Of_pack .., rsvOf_pack ..⟩

theorem Laws.Opcode.efCfg (poly : DReg) (base : SReg) (ctx : Ctx) : Laws.Opcode.Statement (.efCfg poly base ctx) :=
  ⟨opcOf_pack .., f5Of_pack .., rsvOf_pack ..⟩

theorem Laws.Opcode.efAdd (dst : DReg) (a : DReg) (b : DReg) (ctx : Ctx) : Laws.Opcode.Statement (.efAdd dst a b ctx) :=
  ⟨opcOf_pack .., f5Of_pack .., rsvOf_pack ..⟩

theorem Laws.Opcode.efMul (dst : DReg) (a : DReg) (b : DReg) (ctx : Ctx) : Laws.Opcode.Statement (.efMul dst a b ctx) :=
  ⟨opcOf_pack .., f5Of_pack .., rsvOf_pack ..⟩

theorem Laws.Opcode.efSqr (dst : DReg) (a : DReg) (ctx : Ctx) : Laws.Opcode.Statement (.efSqr dst a ctx) :=
  ⟨opcOf_pack .., f5Of_pack .., rsvOf_pack ..⟩

theorem Laws.Opcode.efInv (dst : DReg) (a : DReg) (alg : InvAlg) (ctx : Ctx) : Laws.Opcode.Statement (.efInv dst a alg ctx) :=
  ⟨opcOf_pack .., f5Of_pack .., rsvOf_pack ..⟩

theorem Laws.Opcode.efSqrt (dst : DReg) (a : DReg) (ctx : Ctx) : Laws.Opcode.Statement (.efSqrt dst a ctx) :=
  ⟨opcOf_pack .., f5Of_pack .., rsvOf_pack ..⟩

theorem Laws.Opcode.efTrace (dst : SReg) (a : DReg) (ctx : Ctx) : Laws.Opcode.Statement (.efTrace dst a ctx) :=
  ⟨opcOf_pack .., f5Of_pack .., rsvOf_pack ..⟩

theorem Laws.Opcode.efHtrace (dst : DReg) (a : DReg) (ctx : Ctx) : Laws.Opcode.Statement (.efHtrace dst a ctx) :=
  ⟨opcOf_pack .., f5Of_pack .., rsvOf_pack ..⟩

theorem Laws.Opcode.efSolveq (dst : DReg) (a : DReg) (ctx : Ctx) : Laws.Opcode.Statement (.efSolveq dst a ctx) :=
  ⟨opcOf_pack .., f5Of_pack .., rsvOf_pack ..⟩

theorem Laws.Opcode.efGetp (dst : DReg) (ctx : Ctx) : Laws.Opcode.Statement (.efGetp dst ctx) :=
  ⟨opcOf_pack .., f5Of_pack .., rsvOf_pack ..⟩

theorem Laws.Opcode.efRoot (dst : DReg) (ctx : Ctx) : Laws.Opcode.Statement (.efRoot dst ctx) :=
  ⟨opcOf_pack .., f5Of_pack .., rsvOf_pack ..⟩

theorem Laws.Opcode.efCob (ctx : Ctx) : Laws.Opcode.Statement (.efCob ctx) :=
  ⟨opcOf_pack .., f5Of_pack .., rsvOf_pack ..⟩

theorem Laws.Opcode.efConv (dst : DReg) (a : DReg) (ctx : Ctx) : Laws.Opcode.Statement (.efConv dst a ctx) :=
  ⟨opcOf_pack .., f5Of_pack .., rsvOf_pack ..⟩

theorem Laws.Opcode.efFlush : Laws.Opcode.Statement (.efFlush) :=
  ⟨opcOf_pack .., f5Of_pack .., rsvOf_pack ..⟩

theorem Laws.Opcode.m2Mul (dst : DReg) (a : DReg) (b : DReg) : Laws.Opcode.Statement (.m2Mul dst a b) :=
  ⟨opcOf_pack .., f5Of_pack .., rsvOf_pack ..⟩

theorem Laws.Opcode.m2Vmul (dst : DReg) (v : DReg) (m : DReg) : Laws.Opcode.Statement (.m2Vmul dst v m) :=
  ⟨opcOf_pack .., f5Of_pack .., rsvOf_pack ..⟩

theorem Laws.Opcode.m2Mulv (dst : DReg) (m : DReg) (v : DReg) : Laws.Opcode.Statement (.m2Mulv dst m v) :=
  ⟨opcOf_pack .., f5Of_pack .., rsvOf_pack ..⟩

theorem Laws.Opcode.m2Inv (dst : DReg) (a : DReg) : Laws.Opcode.Statement (.m2Inv dst a) :=
  ⟨opcOf_pack .., f5Of_pack .., rsvOf_pack ..⟩

theorem Laws.Opcode.m2Trn (dst : DReg) (a : DReg) : Laws.Opcode.Statement (.m2Trn dst a) :=
  ⟨opcOf_pack .., f5Of_pack .., rsvOf_pack ..⟩

theorem Laws.Opcode.m2Isz (dst : SReg) (a : DReg) : Laws.Opcode.Statement (.m2Isz dst a) :=
  ⟨opcOf_pack .., f5Of_pack .., rsvOf_pack ..⟩

theorem Laws.Opcode.m2Dec (dst : DReg) (img : DReg) : Laws.Opcode.Statement (.m2Dec dst img) :=
  ⟨opcOf_pack .., f5Of_pack .., rsvOf_pack ..⟩

theorem Laws.Opcode.m2Enc (img : DReg) (a : DReg) : Laws.Opcode.Statement (.m2Enc img a) :=
  ⟨opcOf_pack .., f5Of_pack .., rsvOf_pack ..⟩

theorem Laws.Opcode.m2mInv (dst : DReg) (a : DReg) : Laws.Opcode.Statement (.m2mInv dst a) :=
  ⟨opcOf_pack .., f5Of_pack .., rsvOf_pack ..⟩

theorem Laws.Opcode.m2mRmulm (dst : DReg) (a : DReg) (b : DReg) : Laws.Opcode.Statement (.m2mRmulm dst a b) :=
  ⟨opcOf_pack .., f5Of_pack .., rsvOf_pack ..⟩

theorem Laws.Opcode.m2mRmulv (dst : DReg) (a : DReg) (v : DReg) : Laws.Opcode.Statement (.m2mRmulv dst a v) :=
  ⟨opcOf_pack .., f5Of_pack .., rsvOf_pack ..⟩

theorem Laws.Opcode.m2mLmulv (dst : DReg) (v : DReg) (a : DReg) : Laws.Opcode.Statement (.m2mLmulv dst v a) :=
  ⟨opcOf_pack .., f5Of_pack .., rsvOf_pack ..⟩

theorem Laws.Opcode.m2mLmulm (dst : DReg) (a : DReg) (b : DReg) : Laws.Opcode.Statement (.m2mLmulm dst a b) :=
  ⟨opcOf_pack .., f5Of_pack .., rsvOf_pack ..⟩

theorem Laws.Opcode.m2mDec (dst : DReg) (img : DReg) : Laws.Opcode.Statement (.m2mDec dst img) :=
  ⟨opcOf_pack .., f5Of_pack .., rsvOf_pack ..⟩

theorem Laws.Opcode.m2mEnc (img : DReg) (a : DReg) : Laws.Opcode.Statement (.m2mEnc img a) :=
  ⟨opcOf_pack .., f5Of_pack .., rsvOf_pack ..⟩

theorem Laws.Opcode.gpAdd (dst : DReg) (a : DReg) (b : DReg) : Laws.Opcode.Statement (.gpAdd dst a b) :=
  ⟨opcOf_pack .., f5Of_pack .., rsvOf_pack ..⟩

theorem Laws.Opcode.gpSmul (dst : DReg) (a : DReg) (e : SReg) : Laws.Opcode.Statement (.gpSmul dst a e) :=
  ⟨opcOf_pack .., f5Of_pack .., rsvOf_pack ..⟩

theorem Laws.Opcode.gpMul (dst : DReg) (a : DReg) (b : DReg) : Laws.Opcode.Statement (.gpMul dst a b) :=
  ⟨opcOf_pack .., f5Of_pack .., rsvOf_pack ..⟩

theorem Laws.Opcode.gpDiv (quot : DReg) (a : DReg) (b : DReg) (rem : DReg) : Laws.Opcode.Statement (.gpDiv quot a b rem) :=
  ⟨opcOf_pack .., f5Of_pack .., rsvOf_pack ..⟩

theorem Laws.Opcode.gpMod (dst : DReg) (a : DReg) (b : DReg) : Laws.Opcode.Statement (.gpMod dst a b) :=
  ⟨opcOf_pack .., f5Of_pack .., rsvOf_pack ..⟩

theorem Laws.Opcode.gpGcd (dst : DReg) (a : DReg) (b : DReg) : Laws.Opcode.Statement (.gpGcd dst a b) :=
  ⟨opcOf_pack .., f5Of_pack .., rsvOf_pack ..⟩

theorem Laws.Opcode.gpMmul (dst : DReg) (a : DReg) (b : DReg) (g : DReg) : Laws.Opcode.Statement (.gpMmul dst a b g) :=
  ⟨opcOf_pack .., f5Of_pack .., rsvOf_pack ..⟩

theorem Laws.Opcode.gpMinv (dst : DReg) (a : DReg) (g : DReg) : Laws.Opcode.Statement (.gpMinv dst a g) :=
  ⟨opcOf_pack .., f5Of_pack .., rsvOf_pack ..⟩

theorem Laws.Opcode.gpMdiv (dst : DReg) (a : DReg) (b : DReg) (g : DReg) : Laws.Opcode.Statement (.gpMdiv dst a b g) :=
  ⟨opcOf_pack .., f5Of_pack .., rsvOf_pack ..⟩

theorem Laws.Opcode.gpSqm (dst : DReg) (a : DReg) (map : DReg) : Laws.Opcode.Statement (.gpSqm dst a map) :=
  ⟨opcOf_pack .., f5Of_pack .., rsvOf_pack ..⟩

theorem Laws.Opcode.gpSqrtm (dst : DReg) (a : DReg) (map : DReg) : Laws.Opcode.Statement (.gpSqrtm dst a map) :=
  ⟨opcOf_pack .., f5Of_pack .., rsvOf_pack ..⟩

theorem Laws.Opcode.gpIrr (dst : SReg) (a : DReg) : Laws.Opcode.Statement (.gpIrr dst a) :=
  ⟨opcOf_pack .., f5Of_pack .., rsvOf_pack ..⟩

theorem Laws.Opcode.gpDeg (dst : SReg) (a : DReg) : Laws.Opcode.Statement (.gpDeg dst a) :=
  ⟨opcOf_pack .., f5Of_pack .., rsvOf_pack ..⟩

theorem Laws.Opcode.gpMono (dst : DReg) (a : DReg) (k : SReg) : Laws.Opcode.Statement (.gpMono dst a k) :=
  ⟨opcOf_pack .., f5Of_pack .., rsvOf_pack ..⟩

theorem Laws.Opcode.gpAddm (dst : DReg) (a : DReg) (k : SReg) : Laws.Opcode.Statement (.gpAddm dst a k) :=
  ⟨opcOf_pack .., f5Of_pack .., rsvOf_pack ..⟩

end Sys2Proof
end

