-- ==== Sys2Proof/Tests/Slice0.lean ====
section
/-! SUPPORT. The model's own tests: ill-formed terms, one word per command, one command on small states with the values of
95_test_vectors, every failing check by its error code, the host port, and states that meet the hypotheses of the statements. -/

namespace Sys2Proof.Tests

open Sys2Proof.Machine

set_option Elab.async false

/-! ### Small states -/

/-- A descriptor. -/
def desc (base cap : Nat) : Desc := { base := BitVec.ofNat 32 base, len := 0, rows := 0, cols := 0, cap := BitVec.ofNat 32 cap }

/-- Reset with descriptor `k` at word `16·k`, 16 words each. -/
def regs : State :=
  { State.reset with
    descs := #v[desc 0 16, desc 16 16, desc 32 16, desc 48 16, desc 64 16, desc 80 16, desc 96 16, desc 112 16] }

/-- Words stored at a descriptor, and its LEN. -/
def load (s : State) (d : DReg) (len : Nat) (ws : List Nat) : State :=
  (s.writeWords (s.base d) (ws.map (BitVec.ofNat 32))).setLen d len

/-- Words stored at a descriptor, and its ROWS and COLS. -/
def loadMat (s : State) (d : DReg) (r c : Nat) (ws : List Nat) : State :=
  (s.writeWords (s.base d) (ws.map (BitVec.ofNat 32))).setShape d r c

/-- S0, S1, … set from a list. -/
def scal (s : State) : Nat → List Nat → State
  | _, [] => s
  | k, v :: l => scal (s.setS (Fin.ofNat 8 k) (BitVec.ofNat 32 v)) (k + 1) l

/-- Two polynomials, at D0 and D1. -/
def two (a la b lb : Nat) : State := load (load regs 0 la [a]) 1 lb [b]

/-- CAP of a descriptor. -/
def room (s : State) (d : DReg) (n : Nat) : State := s.setD d { s.D d with cap := BitVec.ofNat 32 n }

/-- A descriptor that ends one word past OM. -/
def past (s : State) (d : DReg) : State := s.setD d { s.D d with base := BitVec.ofNat 32 (65536 - s.cap d + 1) }

/-- A descriptor that ends with the last word of OM. -/
def top (s : State) (d : DReg) : State := s.setD d { s.D d with base := BitVec.ofNat 32 (65536 - s.cap d) }

/-- A source that fails its checks: past OM, and its footprint over its CAP. -/
def src (s : State) (d : DReg) : List State := [past s d, room s d 0]

/-- A destination of one word too few, and of just enough. -/
def fit (s : State) (d : DReg) (n : Nat) : List State := [room s d (n - 1), room s d n]

/-- The small field of degree `m` and polynomial `p`. -/
def field (s : State) (m p : Nat) : State :=
  { s with sf := { m := BitVec.ofNat 32 m, poly := BitVec.ofNat 32 p, valid := true } }

/-- GF(2^4) with S1, S2, … set. -/
def gf16 (l : List Nat) : State := scal (field regs 4 0x13) 1 l

/-- A context in place. -/
def withE (s : State) (c : Ctx) (E : ExtField) : State := s.setEfc c E

def pb4 : ExtField := polyContext 4 1 0x13
def pb4' : ExtField := polyContext 4 2 0x19
def pb5 : ExtField := polyContext 5 7 0x25
def pb8 : ExtField := polyContext 8 7 0x11B
def nb4 : ExtField := onbContext .onb1 4 2
def nb5 : ExtField := onbContext .onb2 5 7

/-- Two elements of the field of EFC0, at D0 and D1. -/
def el (E : ExtField) (a b : Nat) : State := withE (two a E.deg b E.deg) .efc0 E

/-- The environment's next answers. -/
def answers (s : State) (l : List Nat) : State := { s with env := { s.env with answers := l } }

/-- PB4 in EFC0 and NB4 in EFC1, the element 0xB of EFC0 at D0. -/
def both : State := withE (withE (two 0xB 4 0 4) .efc0 pb4) .efc1 nb4

/-- The state after a command that goes on. -/
def run (i : Instr) (s : State) : State :=
  match exec i s with
  | .next t => t
  | .fault _ => { s with status := { s.status with errcode := 0xFF } }
  | .refused _ => { s with status := { s.status with errcode := 0xFF } }

/-- ERRCODE, LEN of `d` and its first `n` words. -/
def out (i : Instr) (s : State) (d : DReg) (n : Nat) : List Nat :=
  (run i s).status.errcode.toNat :: (run i s).len d :: ((run i s).readWords ((run i s).base d) n).map BitVec.toNat

/-- ERRCODE, ROWS and COLS of `d` and its first `n` words. -/
def shape (i : Instr) (s : State) (d : DReg) (n : Nat) : List Nat :=
  (run i s).status.errcode.toNat :: (run i s).rows d :: (run i s).cols d
    :: ((run i s).readWords ((run i s).base d) n).map BitVec.toNat

/-- ERRCODE and S0. -/
def reg (i : Instr) (s : State) : List Nat := [(run i s).status.errcode.toNat, ((run i s).S 0).toNat]

/-- ERRCODE after a command. -/
def code (i : Instr) (s : State) : Nat := (run i s).status.errcode.toNat

/-- A word decodes to a command. -/
def decodesTo (w : Word) (i : Instr) : Bool := decide ((decode w).toOption = some i)

/-- Why a word fails decode. -/
def reject (w : Word) : Option Reject :=
  match decode w with
  | .ok _ => none
  | .error r => some r

/-! ### Ill-formed terms -/

theorem test_wf_redt : (Instr.bpRedt 0 0 7).wellFormed = false ∧ (Instr.bpRedt 0 0 6).wellFormed = true := by decide
theorem test_wf_redp : (Instr.bpRedp 0 0 5).wellFormed = false ∧ (Instr.bpRedp 0 0 4).wellFormed = true := by decide
theorem test_wf_efcfg : (Instr.efCfg 0 6 .efc0).wellFormed = false ∧ (Instr.efCfg 0 5 .efc0).wellFormed = true := by decide
theorem test_ill_formed_term : code (.bpRedt 0 0 7) regs = 0x01 := by decide +kernel

/-! ### Decoding -/

/-- Words of the CONTROL family, written out from the fields of 30_encoding R110, R117. -/
theorem test_decode_control :
    [decodesTo 0x00000000 (.nop)]
      = List.replicate 1 true := by decide +kernel

/-- Words of the BP family, written out from the fields of 30_encoding R110, R117. -/
theorem test_decode_bp :
    [decodesTo 0x0001AB10 (.bpAdd 3 5 6),
     decodesTo 0x0001AB11 (.bpMulc 3 5 6),
     decodesTo 0x0001AB12 (.bpMulk 3 5 6),
     decodesTo 0x00802B13 (.bpSqr 3 5 .table),
     decodesTo 0x0003AB14 (.bpDiv 3 5 6 1),
     decodesTo 0x0001AB15 (.bpRem 3 5 6),
     decodesTo 0x0001AB16 (.bpGcd 3 5 6),
     decodesTo 0x0001AB17 (.bpRedt 3 5 6),
     decodesTo 0x00012B18 (.bpRedp 3 5 4),
     decodesTo 0x00002B19 (.bpDeg 3 5),
     decodesTo 0x0001AB1A (.bpBget 3 5 6),
     decodesTo 0x00002B1B (.bpBset 3 5),
     decodesTo 0x00002B1C (.bpBclr 3 5),
     decodesTo 0x00002B1D (.bpBxor 3 5),
     decodesTo 0x00002B1E (.bpIrr 3 5)]
      = List.replicate 15 true := by decide +kernel

/-- Words of the SF family, written out from the fields of 30_encoding R110, R117. -/
theorem test_decode_sf :
    [decodesTo 0x00015820 (.sfCfg 3 5),
     decodesTo 0x0001AB21 (.sfAdd 3 5 6),
     decodesTo 0x0001AB22 (.sfMul 3 5 6),
     decodesTo 0x00002B23 (.sfSqr 3 5),
     decodesTo 0x0001AB24 (.sfExp 3 5 6),
     decodesTo 0x00002B25 (.sfInv 3 5),
     decodesTo 0x00002B26 (.sfSqrt 3 5),
     decodesTo 0x00002B27 (.sfIsel 3 5)]
      = List.replicate 8 true := by decide +kernel

/-- Words of the EF family, written out from the fields of 30_encoding R110, R117. -/
theorem test_decode_ef :
    [decodesTo 0x02015830 (.efCfg 3 5 .efc1),
     decodesTo 0x0201AB31 (.efAdd 3 5 6 .efc1),
     decodesTo 0x0201AB32 (.efMul 3 5 6 .efc1),
     decodesTo 0x02002B33 (.efSqr 3 5 .efc1),
     decodesTo 0x03002B34 (.efInv 3 5 .repeatedSquaring .efc1),
     decodesTo 0x02002B35 (.efSqrt 3 5 .efc1),
     decodesTo 0x02002B36 (.efTrace 3 5 .efc1),
     decodesTo 0x02002B37 (.efHtrace 3 5 .efc1),
     decodesTo 0x02002B38 (.efSolveq 3 5 .efc1),
     decodesTo 0x02000339 (.efGetp 3 .efc1),
     decodesTo 0x0200033A (.efRoot 3 .efc1),
     decodesTo 0x0200003B (.efCob .efc1),
     decodesTo 0x02002B3C (.efConv 3 5 .efc1),
     decodesTo 0x0000003D (.efFlush)]
      = List.replicate 14 true := by decide +kernel

/-- Words of the M2 family, written out from the fields of 30_encoding R110, R117. -/
theorem test_decode_m2 :
    [decodesTo 0x0001AB40 (.m2Mul 3 5 6),
     decodesTo 0x0001AB41 (.m2Vmul 3 5 6),
     decodesTo 0x0001AB42 (.m2Mulv 3 5 6),
     decodesTo 0x00002B43 (.m2Inv 3 5),
     decodesTo 0x00002B44 (.m2Trn 3 5),
     decodesTo 0x00002B45 (.m2Isz 3 5),
     decodesTo 0x00002B46 (.m2Dec 3 5),
     decodesTo 0x00002B47 (.m2Enc 3 5)]
      = List.replicate 8 true := by decide +kernel

/-- Words of the M2M family, written out from the fields of 30_encoding R110, R117. -/
theorem test_decode_m2m :
    [decodesTo 0x00002B50 (.m2mInv 3 5),
     decodesTo 0x0001AB51 (.m2mRmulm 3 5 6),
     decodesTo 0x0001AB52 (.m2mRmulv 3 5 6),
     decodesTo 0x0001AB53 (.m2mLmulv 3 5 6),
     decodesTo 0x0001AB54 (.m2mLmulm 3 5 6),
     decodesTo 0x00002B55 (.m2mDec 3 5),
     decodesTo 0x00002B56 (.m2mEnc 3 5)]
      = List.replicate 7 true := by decide +kernel

/-- Words of the GP family, written out from the fields of 30_encoding R110, R117. -/
theorem test_decode_gp :
    [decodesTo 0x0001AB60 (.gpAdd 3 5 6),
     decodesTo 0x0001AB61 (.gpSmul 3 5 6),
     decodesTo 0x0001AB62 (.gpMul 3 5 6),
     decodesTo 0x0003AB63 (.gpDiv 3 5 6 1),
     decodesTo 0x0001AB64 (.gpMod 3 5 6),
     decodesTo 0x0001AB65 (.gpGcd 3 5 6),
     decodesTo 0x0003AB66 (.gpMmul 3 5 6 1),
     decodesTo 0x0001AB67 (.gpMinv 3 5 6),
     decodesTo 0x0003AB68 (.gpMdiv 3 5 6 1),
     decodesTo 0x0001AB69 (.gpSqm 3 5 6),
     decodesTo 0x0001AB6A (.gpSqrtm 3 5 6),
     decodesTo 0x00002B6B (.gpIrr 3 5),
     decodesTo 0x00002B6C (.gpDeg 3 5),
     decodesTo 0x0001AB6D (.gpMono 3 5 6),
     decodesTo 0x0001AB6E (.gpAddm 3 5 6)]
      = List.replicate 15 true := by decide +kernel
/-- The rejected words of V-ENC-7 to V-ENC-16, each by its reason. -/
theorem test_decode_reject :
    [reject 0x04000000, reject 0x00000001, reject 0x00000110, reject 0x01000013, reject 0x01800034, reject 0x02000010,
     reject 0x0001C817, reject 0x00014030, reject 0x0200003D, reject 0x00100010, reject 0x00020010, reject 0x0000001F]
      = [some .reservedBits, some .reservedOpcode, none, some .illegalAlg, some .illegalAlg, some .unusedField,
         some .scalarBase, none, some .unusedField, some .reservedBits, some .unusedField, some .reservedOpcode] := by
  decide +kernel

/-- V-ENC-2 and V-ENC-3 through the encoder. -/
theorem test_encode : encode (.bpMulk 2 0 1) = 0x00004212 ∧ encode (.efInv 3 1 .repeatedSquaring .efc1) = 0x03000B34 := by
  decide +kernel

theorem test_decode_table_word : decodeTableWord 32 0x00004212 = some (.bpMulk 2 0 1) ∧ decodeTableWord 32 0x1F = none := by
  decide +kernel

theorem test_mask_accepts : maskAccepts 0x00004212 = true ∧ maskAccepts 0x0001C817 = false ∧ maskAccepts 0x01800034 = false := by
  decide +kernel

/-- The command stored by `withFetchWord` is the next step's. -/
theorem test_fetch_word : step (State.reset.withFetchWord 32 0x00000000) =
    .next (((State.reset.accept 0).withInputs []).complete 0) := rfl

/-! ### Control and the host port -/

/-- V-CTL-1: NOP. -/
theorem test_nop : (run .nop ({ regs with cmdseq := 5 }.issue 0)).statusWord = 2
    ∧ (run .nop ({ regs with cmdseq := 5 }.issue 0)).cmdseq = 6 := by decide +kernel

/-- V-CTL-2: a rejected issue. -/
theorem test_reject_issue :
    ({ regs with status := { regs.status with err := true, errcode := 5 } }.hostWrite 4 4 0).statusWord = 0x50C := by
  decide +kernel

/-- V-CTL-3: S0 while BUSY. -/
theorem test_busy_read : (((scal regs 0 [7]).issue 0).hostRead 0x40 4).env.response = .data 0
    ∧ (((scal regs 0 [7]).issue 0).hostRead 0x40 4).statusWord = 0x11 := by decide +kernel

/-- V-CTL-4: IRQ until ERR is cleared. -/
theorem test_irq : (run (.sfAdd 0 0 0) { regs with ie := IntEnable.ofWord 2 }).irq = true
    ∧ ((run (.sfAdd 0 0 0) { regs with ie := IntEnable.ofWord 2 }).hostWrite 8 4 4).irq = false := by decide +kernel

/-- V-CTL-5, V-CTL-7: reads after reset, reserved offsets. -/
theorem test_reset_reads : ([0x000, 0x008, 0x02C, 0x028, 0x03C, 0x114].map (fun o => (State.reset.hostRead o 4).env.response))
    = [.data 0x49430011, .data 0, .data 0, .data 0, .data 0, .data 0] := by decide +kernel

/-- V-CTL-6: a 16-bit read. -/
theorem test_width : State.reset.hostRead 0 2 = State.reset.respond .busError := by decide +kernel

theorem test_register_map : ([0x05C, 0x1F0, 0x204, 0x23C, 0x100004, 0x13FFFC, 0x140000].map (locate 65536))
    = [.scalar 7, .descCap 7, .efKind .efc0, .efK3 .efc1, .om 1, .om 65535, .reserved] := by decide +kernel

/-- R119's word of `BP.MULK d2, d0, d1` issued and waited for, two reads before the engine's turn; 0x13 ⊗ 0xB by hand. -/
theorem test_pseudoCommand : ((pseudoCommand (.bpMulk 2 0 1) [0, 0, 1] (two 0x13 5 0xB 4)).map
    (fun t => (t.env.response, t.cmd, t.poly 2))) = some (.data 2, 0x00004212, 0xAD) := by decide +kernel

/-- No turn of the engine, no end of the WAIT; reads while BUSY see BUSY = 1 and go on. -/
theorem test_pseudoWait : pseudoCommand .nop [0, 0] regs = none ∧ pseudoWait [] regs = none
    ∧ ((pseudoWait [5] regs).map (fun t => t.env.response)) = some (.data 0) := by decide +kernel

/-- A byte of a stored word: least significant first (20_memory R97). -/
theorem test_byte_order : ([128, 129, 130, 131].map (regs.hostWrite 0x100080 4 0x04030201).readByte) = [1, 2, 3, 4] := by
  decide +kernel

/-- V-ENC-7 as an issued word: ILLEGAL_CMD. -/
theorem test_illegal_word : (match step (State.reset.withFetchWord 32 0x04000000) with
    | .next t => (t.statusWord, t.errcmd) | .fault _ => (0, 0) | .refused _ => (0, 0)) = (0x106, 0x04000000) := by
  decide +kernel

/-! ### Binary polynomials (V-BP) -/

theorem test_bpAdd : out (.bpAdd 2 0 1) (two 0xB 4 0x6 3) 2 1 = [0, 4, 0xD] := by decide +kernel
theorem test_bpAdd_padding : out (.bpAdd 0 0 1) (two 0xFB 4 0x1 1) 0 1 = [0, 4, 0xA] := by decide +kernel
theorem test_bpMulc : out (.bpMulc 2 0 1) (two 0xFFFFFFFF 32 0xFFFFFFFF 32) 2 2 = [0, 64, 0x55555555, 0x55555555] := by
  decide +kernel
theorem test_bpMulk : out (.bpMulk 2 0 1) (two 0xB 4 0x5 3) 2 1 = [0, 8, 0x27] := by decide +kernel
theorem test_bpMulk_empty : out (.bpMulk 2 0 1) (two 0 0 0 0) 2 0 = [0, 0] := by decide +kernel
theorem test_bpSqr : out (.bpSqr 2 0 .table) (two 0xB 4 0 0) 2 1 = [0, 8, 0x45] := by decide +kernel
theorem test_bpDiv : out (.bpDiv 2 0 1 3) (two 0x27 6 0xB 4) 2 1 ++ out (.bpDiv 2 0 1 3) (two 0x27 6 0xB 4) 3 1
    = [0, 3, 0x5, 0, 1, 0] := by decide +kernel
theorem test_bpRem : out (.bpRem 2 0 1) (two 0x80 8 0x13 5) 2 1 = [0, 4, 0xB] := by decide +kernel
theorem test_bpGcd : out (.bpGcd 2 0 1) (two 0x31 6 0x23 6) 2 1 = [0, 3, 0x7] := by decide +kernel
theorem test_bpRedt : out (.bpRedt 2 0 0) (scal (two 0xFFFF 16 0 0) 0 [5, 2]) 2 1 = [0, 5, 0x15] := by decide +kernel
theorem test_bpRedt_short : out (.bpRedt 2 0 0) (scal (two 0x3 2 0 0) 0 [8, 3]) 2 1 = [0, 8, 0x3] := by decide +kernel
theorem test_bpRedp : out (.bpRedp 2 0 0) (scal (two 0x2B79 14 0 0) 0 [8, 1, 3, 4]) 2 1 = [0, 8, 0xC1] := by decide +kernel
theorem test_bpRedp_power : out (.bpRedp 2 0 0) (scal (two 0x10000 17 0 0) 0 [8, 1, 3, 4]) 2 1 = [0, 8, 0x5E] := by
  decide +kernel
theorem test_bpDeg : [reg (.bpDeg 0 0) (two 0xB 32 0 0), reg (.bpDeg 0 0) (two 0 5 0 0), reg (.bpDeg 0 0) (two 0 0 0 0)]
    = [[0, 3], [0, 0xFFFFFFFF], [0, 0xFFFFFFFF]] := by decide +kernel
theorem test_bpBget : [reg (.bpBget 0 0 1) (scal (two 0xFB 4 0 0) 0 [7, 40]), reg (.bpBget 0 0 1) (scal (two 0xFB 4 0 0) 0 [7, 4]),
    reg (.bpBget 0 0 1) (scal (two 0xFB 4 0 0) 0 [7, 3])] = [[0, 0], [0, 0], [0, 1]] := by decide +kernel
theorem test_bpBset : out (.bpBset 0 1) (scal (two 0xB 4 0 0) 1 [2]) 0 1 = [0, 4, 0xF] := by decide +kernel
theorem test_bpBclr : out (.bpBclr 0 1) (scal (two 0xB 4 0 0) 1 [0]) 0 1 = [0, 4, 0xA] := by decide +kernel
theorem test_bpBxor : out (.bpBxor 0 1) (scal (two 0xB 4 0 0) 1 [3]) 0 1 = [0, 4, 0x3] := by decide +kernel
theorem test_bpIrr : ([0x13, 0x15, 0x11B, 0x101, 0x1, 0x0, 0x2, 0x3].map (fun a => reg (.bpIrr 0 0) (two a 12 0 0)))
    = [[0, 1], [0, 0], [0, 1], [0, 0], [0, 1], [0, 0], [0, 1], [0, 1]] := by decide +kernel

/-! ### The small field (V-SF) -/

theorem test_sfCfg : (run (.sfCfg 0 1) (scal regs 0 [4, 0x13])).sf = { m := 4, poly := 0x13, valid := true } := by
  decide +kernel
theorem test_sfCfg_31 : (run (.sfCfg 0 1) (scal regs 0 [31, 0x80000009])).sf.m = 31 := by decide +kernel
theorem test_sfAdd : reg (.sfAdd 0 1 2) (gf16 [0x6, 0xB]) = [0, 0xD] := by decide +kernel
theorem test_sfMul : [reg (.sfMul 0 1 2) (gf16 [0x7, 0xB]), reg (.sfMul 0 1 2) (scal (field regs 8 0x11B) 1 [0x57, 0x83])]
    = [[0, 4], [0, 0xC1]] := by decide +kernel
theorem test_sfSqr : reg (.sfSqr 0 1) (gf16 [5]) = [0, 2] := by decide +kernel
theorem test_sfExp : ([(2, 7), (2, 0xFFFFFFFF), (3, 0xFFFFFFFE), (2, 0x80000000), (0, 0), (0, 5)].map
    (fun p => reg (.sfExp 0 1 2) (gf16 [p.1, p.2]))) = [[0, 0xB], [0, 9], [0, 0xB], [0, 0xB], [0, 1], [0, 0]] := by decide +kernel
theorem test_sfInv : [reg (.sfInv 0 1) (gf16 [2]), reg (.sfInv 0 1) (scal (field regs 31 0x80000009) 1 [2])]
    = [[0, 9], [0, 0x40000004]] := by decide +kernel
theorem test_sfSqrt : [reg (.sfSqrt 0 1) (gf16 [7]), reg (.sfSqrt 0 1) (scal (field regs 8 0x11B) 1 [0x53])]
    = [[0, 6], [0, 0xF7]] := by decide +kernel
theorem test_sfIsel : ([0xF, 0x10, 0xFFFFFFFF].map (fun a => reg (.sfIsel 0 1) (gf16 [a]))) = [[0, 1], [0, 0], [0, 0]] := by
  decide +kernel

/-! ### Extension fields (V-EF, V-COB) -/

/-- V-EF-1, V-EF-2: the registers of a configured context. -/
theorem test_efCfg : ((run (.efCfg 0 0 .efc1) (scal (two 0x11B 9 0 0) 0 [8, 0, 7])).readLoc <$>
    [Loc.efValid .efc1, .efKind .efc1, .efN .efc1, .efFieldId .efc1, .efRType .efc1, .efK1 .efc1, .efK2 .efc1, .efK3 .efc1,
     .efValid .efc0]) = [1, 0, 8, 7, 2, 1, 3, 4, 0] := by decide +kernel
theorem test_efCfg_onb : (run (.efCfg 0 0 .efc0) (scal regs 0 [4, 1, 2])).efc0.poly = 0x1F := by decide +kernel
theorem test_efGetp : out (.efGetp 2 .efc0) (el nb5 0 0) 2 1 = [0, 6, 0x37] := by decide +kernel
theorem test_efAdd : out (.efAdd 2 0 1 .efc0) (el pb5 0x03 0x12) 2 1 = [0, 5, 0x11] := by decide +kernel
theorem test_efMul : out (.efMul 2 0 1 .efc0) (el pb8 0x57 0x83) 2 1 = [0, 8, 0xC1] := by decide +kernel
theorem test_efMul_onb : out (.efMul 2 0 1 .efc0) (el nb4 0x6 0xD) 2 1 ++ out (.efMul 2 0 1 .efc0) (el nb5 0x0C 0x19) 2 1
    = [0, 4, 0xF, 0, 5, 0x02] := by decide +kernel
theorem test_efSqr : out (.efSqr 2 0 .efc0) (el pb5 3 0) 2 1 ++ out (.efSqr 2 0 .efc0) (el nb4 6 0) 2 1
    = [0, 5, 5, 0, 4, 3] := by decide +kernel
theorem test_efInv : out (.efInv 2 0 .extendedEuclid .efc0) (el pb5 3 0) 2 1
    ++ out (.efInv 2 0 .repeatedSquaring .efc0) (el nb5 0x10 0) 2 1 = [0, 5, 0x1C, 0, 5, 0x19] := by decide +kernel
theorem test_efSqrt : out (.efSqrt 2 0 .efc0) (el pb5 3 0) 2 1 ++ out (.efSqrt 2 0 .efc0) (el nb4 6 0) 2 1
    = [0, 5, 0x1A, 0, 4, 0xC] := by decide +kernel
theorem test_efTrace : [reg (.efTrace 0 0 .efc0) (el pb5 3 0), reg (.efTrace 0 0 .efc0) (el pb5 0x12 0),
    reg (.efTrace 0 0 .efc0) (el nb4 0xD 0)] = [[0, 1], [0, 0], [0, 1]] := by decide +kernel
theorem test_efHtrace : out (.efHtrace 2 0 .efc0) (el pb5 4 0) 2 1 ++ out (.efHtrace 2 0 .efc0) (el nb5 0x0C 0) 2 1
    = [0, 5, 0x0B, 0, 5, 0x17] := by decide +kernel
theorem test_efSolveq : out (.efSolveq 2 0 .efc0) (el pb5 0x12 0) 2 1 ++ out (.efSolveq 2 0 .efc0) (el pb5 0 0) 2 1
    = [0, 5, 0x06, 0, 5, 0] := by decide +kernel
/-- V-EF-15: the search, one candidate that succeeds. -/
theorem test_efSolveq_search : out (.efSolveq 2 0 .efc0) (answers (el pb4 6 0) [9]) 2 1 ∈ [[0, 4, 2], [0, 4, 3]]
    ∧ (run (.efSolveq 2 0 .efc0) (answers (el pb4 6 0) [9])).itercnt = 1 := by decide +kernel
/-- V-COB-1: every root of `x^4 + x + 1` in NB4 by its stored string, and a candidate that is none. -/
theorem test_efRoot : ([3, 6, 9, 12].map (fun r => out (.efRoot 2 .efc1) (answers both [0, r]) 2 1))
    = [[0, 4, 0xC], [0, 4, 0x6], [0, 4, 0x9], [0, 4, 0x3]] := by decide +kernel
theorem test_efRoot_miss : (run (.efRoot 2 .efc1) ((answers both [0, 5]).accept 0)).phase = .busy
    ∧ (run (.efRoot 2 .efc1) ((answers both [0, 5]).accept 0)).candidates = 1 := by decide +kernel
theorem test_efCob : (run (.efCob .efc0) (answers both [0, 3])).cobUsed = 2 := by decide +kernel
/-- V-COB-3: the four roots give the four images of 0xB. -/
theorem test_efConv : ([3, 6, 9, 12].map (fun r => out (.efConv 1 0 .efc0) (answers both [0, r]) 1 1))
    = [[0, 4, 0x7], [0, 4, 0xB], [0, 4, 0xE], [0, 4, 0xD]] := by decide +kernel
/-- V-COB-5: and back through the cache. -/
theorem test_efConv_back : out (.efConv 2 1 .efc1) (run (.efConv 1 0 .efc0) (answers both [0, 3])) 2 1 = [0, 4, 0xB] := by
  decide +kernel
theorem test_efFlush : (run .efFlush (run (.efCob .efc0) (answers both [0, 3]))).cobUsed = 0 := by decide +kernel

/-! ### GF(2) matrices (V-M2) -/

def m33 : State := loadMat regs 0 3 3 [3, 6, 7]

theorem test_m2Mul : shape (.m2Mul 2 0 1) (loadMat (loadMat regs 0 2 3 [5, 3]) 1 3 2 [1, 2, 3]) 2 2 = [0, 2, 2, 2, 3] := by
  decide +kernel
theorem test_m2Vmul : out (.m2Vmul 2 1 0) (load m33 1 3 [5]) 2 1 = [0, 3, 4] := by decide +kernel
theorem test_m2Mulv : out (.m2Mulv 2 0 1) (load m33 1 3 [5]) 2 1 = [0, 3, 3] := by decide +kernel
theorem test_m2Inv : shape (.m2Inv 2 0) m33 2 3 = [0, 3, 3, 6, 7, 5] := by decide +kernel
theorem test_m2Trn : shape (.m2Trn 2 0) m33 2 3 = [0, 3, 3, 5, 7, 6] := by decide +kernel
theorem test_m2Trn_wide : shape (.m2Trn 2 0) (loadMat (room regs 2 40) 0 1 40 [0xFFFFFFFF, 0xFF]) 2 40
    = [0, 40, 1] ++ List.replicate 40 1 := by decide +kernel
theorem test_m2Isz : [reg (.m2Isz 0 0) (loadMat regs 0 1 4 [0xF0]), reg (.m2Isz 0 0) m33] = [[0, 1], [0, 0]] := by decide +kernel
theorem test_m2Dec : shape (.m2Dec 2 0) (load regs 0 11 [3, 3, 0x070603]) 2 3 = [0, 3, 3, 3, 6, 7] := by decide +kernel
theorem test_m2Enc : out (.m2Enc 2 0) m33 2 3 = [0, 11, 3, 3, 0x00070603] := by decide +kernel

/-! ### Matrices over the small field (V-M2M) -/

theorem test_m2mInv : shape (.m2mInv 2 0) (loadMat (gf16 []) 0 2 2 [1, 2, 3, 4]) 2 4 = [0, 2, 2, 2, 1, 8, 9] := by decide +kernel
theorem test_m2mInv_3 : shape (.m2mInv 2 0) (loadMat (gf16 []) 0 3 3 [2, 0, 1, 1, 1, 0, 0, 3, 7]) 2 9
    = [0, 3, 3, 0xF, 0xC, 4, 0xF, 0xD, 4, 0xC, 0xB, 8] := by decide +kernel
theorem test_m2mProducts : [code (.m2mRmulm 7 6 5) regs, code (.m2mRmulv 7 6 5) regs, code (.m2mLmulv 7 6 5) regs,
    code (.m2mLmulm 7 6 5) regs] = [0x14, 0x14, 0x14, 0x14] := by decide +kernel
theorem test_m2mDec : shape (.m2mDec 2 0) (load (gf16 []) 0 8 [2, 0x04030201]) 2 4 = [0, 2, 2, 1, 2, 3, 4] := by decide +kernel
theorem test_m2mDec_10 : shape (.m2mDec 2 0) (load (field regs 10 0x409) 0 8 [1, 0x000103FF]) 2 2 = [0, 1, 2, 0x3FF, 1] := by
  decide +kernel
theorem test_m2mEnc : out (.m2mEnc 2 0) (loadMat (gf16 []) 0 2 2 [1, 2, 3, 4]) 2 2 = [0, 8, 2, 0x04030201] := by decide +kernel

/-! ### Goppa polynomials (V-GP) -/

/-- Coefficient lists at D0 and D1, `g = [8, 1, 1]` at D4. -/
def gp (a b : List Nat) : State := load (load (load (gf16 []) 0 a.length a) 1 b.length b) 4 3 [8, 1, 1]

/-- The map of V-GP-13 at D1. -/
def mapped (a : List Nat) : State := loadMat (gp a []) 1 2 2 [1, 8, 0, 1]

theorem test_gpAdd : out (.gpAdd 2 0 1) (gp [2, 3, 1] [1, 1]) 2 3 = [0, 3, 3, 2, 1] := by decide +kernel
theorem test_gpAdd_zero : out (.gpAdd 2 0 1) (gp [2, 3, 1] [2, 3, 1]) 2 1 = [0, 1, 0] := by decide +kernel
theorem test_gpSmul : out (.gpSmul 2 0 1) (scal (gp [2, 3, 1] []) 1 [7]) 2 3 = [0, 3, 0xE, 9, 7] := by decide +kernel
theorem test_gpMul : out (.gpMul 2 0 1) (gp [2, 3, 1] [1, 1]) 2 4 = [0, 4, 2, 1, 2, 1] := by decide +kernel
theorem test_gpDiv : out (.gpDiv 2 0 4 3) (gp [1, 0, 0, 1] []) 2 2 ++ out (.gpDiv 2 0 4 3) (gp [1, 0, 0, 1] []) 3 2
    = [0, 2, 1, 1, 0, 2, 9, 9] := by decide +kernel
theorem test_gpMod : out (.gpMod 2 0 4) (gp [1, 0, 0, 1] []) 2 2 = [0, 2, 9, 9] := by decide +kernel
theorem test_gpGcd : out (.gpGcd 2 0 1) (gp [0xA, 7, 1] [0xE, 1, 3]) 2 2 = [0, 2, 2, 1] := by decide +kernel
theorem test_gpMmul : out (.gpMmul 2 0 1 4) (gp [3, 5] [7, 1]) 2 2 = [0, 2, 7, 0xE] := by decide +kernel
theorem test_gpMinv : out (.gpMinv 2 0 4) (gp [3, 5] []) 2 2 = [0, 2, 0xC, 0xA] := by decide +kernel
theorem test_gpMdiv : out (.gpMdiv 2 0 1 4) (gp [3, 5] [7, 1]) 2 2 = [0, 2, 8, 5] := by decide +kernel
theorem test_gpSqm : out (.gpSqm 2 0 1) (mapped [3, 5]) 2 2 = [0, 2, 6, 2] := by decide +kernel
theorem test_gpSqrtm : out (.gpSqrtm 2 0 1) (mapped [3, 5]) 2 2 = [0, 2, 9, 3] := by decide +kernel
theorem test_gpIrr : ([[8, 1, 1], [2, 3, 1], [1, 0, 1], [3, 1], [5], [0]].map (fun a => reg (.gpIrr 0 0) (gp a [])))
    = [[0, 1], [0, 0], [0, 0], [0, 1], [0, 1], [0, 0]] := by decide +kernel
theorem test_gpDeg : ([[2, 3, 1], [5, 0, 0], []].map (fun a => reg (.gpDeg 0 0) (gp a [])))
    = [[0, 2], [0, 0], [0, 0xFFFFFFFF]] := by decide +kernel
theorem test_gpMono : out (.gpMono 2 0 1) (scal (gp [2, 3, 1] []) 1 [2]) 2 5 ++ out (.gpMono 2 0 1) (scal (gp [0] []) 1 [100]) 2 1
    = [0, 5, 0, 0, 2, 3, 1, 0, 1, 0] := by decide +kernel
theorem test_gpAddm : out (.gpAddm 2 0 1) (scal (gp [2, 3, 1] []) 1 [2]) 2 2 ++ out (.gpAddm 2 0 1) (scal (gp [0] []) 1 [3]) 2 4
    = [0, 2, 2, 3, 0, 4, 0, 0, 0, 1] := by decide +kernel

/-! ### The clauses of the statements, each at a boundary value

The codes follow the order of the checks; the last state of each list meets them all. -/

/-- ERRCODE of one command over states. -/
def codes (i : Instr) (l : List State) : List Nat := l.map (code i)

theorem clauses_bpAdd : codes (.bpAdd 2 0 1) (src (two 0xB 4 6 3) 0 ++ src (two 0xB 4 6 3) 1 ++ [past (two 0xB 4 6 3) 2]
    ++ fit (two 0xB 4 6 3) 2 1 ++ [top (two 0xB 4 6 3) 2]) = [2, 2, 2, 2, 2, 3, 0, 0] := by decide +kernel
theorem clauses_bpMulc : codes (.bpMulc 2 0 1) (src (two 0xB 4 6 17) 0 ++ src (two 0xB 4 6 17) 1 ++ [past (two 0xB 4 6 17) 2]
    ++ fit (two 0xB 4 6 17) 2 2) = [2, 2, 2, 2, 2, 3, 0] := by decide +kernel
theorem clauses_bpMulk : codes (.bpMulk 2 0 1) (src (two 0xB 4 6 17) 0 ++ src (two 0xB 4 6 17) 1 ++ [past (two 0xB 4 6 17) 2]
    ++ fit (two 0xB 4 6 17) 2 2) = [2, 2, 2, 2, 2, 3, 0] := by decide +kernel
theorem clauses_bpSqr : codes (.bpSqr 2 0 .interleave) (src (two 0xB 17 0 0) 0 ++ [past (two 0xB 17 0 0) 2]
    ++ fit (two 0xB 17 0 0) 2 2) = [2, 2, 2, 3, 0] := by decide +kernel
theorem clauses_bpDiv : codes (.bpDiv 2 0 1 3) (src (two 0x27 6 0xB 4) 0 ++ src (two 0x27 6 0xB 4) 1
    ++ [past (two 0x27 6 0xB 4) 2, past (two 0x27 6 0xB 4) 3, two 0x27 6 0 4] ++ fit (two 0x27 6 0xB 4) 2 1
    ++ fit (two 0x27 6 0xB 4) 3 1 ++ [(two 0x27 6 0xB 4).setD 3 (desc 32 16), (two 0x27 6 0xB 4).setD 3 (desc 33 16)])
    = [2, 2, 2, 2, 2, 2, 7, 3, 0, 3, 0, 4, 0] := by decide +kernel
theorem clauses_bpDiv_same : code (.bpDiv 2 0 1 2) (two 0x27 6 0xB 4) = 4 := by decide +kernel
theorem clauses_bpRem : codes (.bpRem 2 0 1) (src (two 0x80 8 0x13 5) 0 ++ src (two 0x80 8 0x13 5) 1
    ++ [past (two 0x80 8 0x13 5) 2, two 0x80 8 0 5] ++ fit (two 0x80 8 0x13 5) 2 1) = [2, 2, 2, 2, 2, 7, 3, 0] := by decide +kernel
theorem clauses_bpGcd : codes (.bpGcd 2 0 1) (src (two 0x31 6 0x23 6) 0 ++ src (two 0x31 6 0x23 6) 1
    ++ [past (two 0x31 6 0x23 6) 2, two 0 6 0 6, two 0 6 1 6] ++ fit (two 0x31 6 0x23 6) 2 1)
    = [2, 2, 2, 2, 2, 8, 0, 3, 0] := by decide +kernel

/-- `A = 0xFFFF` with `S0, S1, …`. -/
def redS (l : List Nat) : State := scal (two 0xFFFF 16 0 0) 0 l

theorem clauses_bpRedt : code (.bpRedt 2 0 7) (redS [5, 2]) = 1
    ∧ codes (.bpRedt 2 0 0) (src (redS [5, 2]) 0 ++ [past (redS [5, 2]) 2, redS [5, 0], redS [5, 5], redS [5, 4], redS [2, 1]]
        ++ fit (redS [33, 2]) 2 2) = [2, 2, 2, 5, 5, 0, 0, 3, 0] := by decide +kernel
theorem clauses_bpRedp : code (.bpRedp 2 0 5) (redS [8, 1, 3, 4]) = 1
    ∧ codes (.bpRedp 2 0 0) (src (redS [8, 1, 3, 4]) 0 ++ [past (redS [8, 1, 3, 4]) 2, redS [8, 0, 3, 4], redS [8, 3, 3, 4],
        redS [8, 1, 4, 4], redS [8, 1, 3, 8], redS [8, 1, 3, 7], redS [4, 1, 2, 3]] ++ fit (redS [33, 1, 3, 4]) 2 2)
      = [2, 2, 2, 5, 5, 5, 5, 0, 0, 3, 0] := by decide +kernel
theorem clauses_bpScalars : codes (.bpDeg 0 0) (src (two 0xB 4 0 0) 0) ++ codes (.bpBget 0 0 1) (src (two 0xB 4 0 0) 0)
    ++ codes (.bpIrr 0 0) (src (two 0xB 4 0 0) 0) = [2, 2, 2, 2, 2, 2] := by decide +kernel
theorem clauses_bpBit : [.bpBset 0 1, .bpBclr 0 1, .bpBxor 0 1].map (fun i => codes i
    (src (scal (two 0xB 4 0 0) 1 [3]) 0 ++ [scal (two 0xB 4 0 0) 1 [4], scal (two 0xB 4 0 0) 1 [3]]))
    = List.replicate 3 [2, 2, 6, 0] := by decide +kernel

theorem clauses_sfCfg : codes (.sfCfg 0 1) ([[1, 3], [32, 0], [8, 0x1B], [4, 0x23], [8, 0x101], [2, 7], [31, 0x80000009]].map
    (scal regs 0)) = [0xE, 0xE, 0xE, 0xE, 0xE, 0, 0] := by decide +kernel
theorem clauses_sfBinary : [.sfAdd 0 1 2, .sfMul 0 1 2].map (fun i => codes i
    [scal regs 1 [1, 1], gf16 [0x10, 1], gf16 [1, 0x10], gf16 [0xF, 0xF]]) = List.replicate 2 [0xD, 0xF, 0xF, 0] := by decide +kernel
theorem clauses_sfUnary : [.sfSqr 0 1, .sfSqrt 0 1].map (fun i => codes i [scal regs 1 [1], gf16 [0x10], gf16 [0xF]])
    = List.replicate 2 [0xD, 0xF, 0] := by decide +kernel
theorem clauses_sfIsel : codes (.sfIsel 0 1) [scal regs 1 [1], gf16 [0x10]] = [0xD, 0] := by decide +kernel
theorem clauses_sfExp : codes (.sfExp 0 1 2) [regs, gf16 [0x10, 0], gf16 [0, 0xFFFFFFFF], gf16 [0, 0], gf16 [1, 0xFFFFFFFF]]
    = [0xD, 0xF, 9, 0, 0] := by decide +kernel
theorem clauses_sfInv : codes (.sfInv 0 1) [regs, gf16 [0x10], gf16 [0], gf16 [1]] = [0xD, 0xF, 9, 0] := by decide +kernel

/-- Arguments of EF.CFG: the polynomial at D0, `n`, kind and identifier in S0 to S2. -/
def cfgS (p len n kind : Nat) : State := scal (load regs 0 len [p]) 0 [n, kind, 7]

theorem clauses_efCfg_poly : code (.efCfg 0 6 .efc0) (cfgS 0x13 5 4 0) = 1
    ∧ codes (.efCfg 0 0 .efc0) (src (cfgS 0x13 5 4 0) 0 ++ [cfgS 0x3 2 1 0, cfgS 0x13 5 1025 0, cfgS 0x13 5 3 0,
        cfgS 0x11 5 4 0, cfgS 0x7 3 2 0]) = [2, 2, 0xE, 0xE, 0xE, 0xE, 0] := by decide +kernel
theorem clauses_efCfg_normal : code (.efCfg 0 6 .efc0) (cfgS 0 0 4 1) = 1
    ∧ codes (.efCfg 0 0 .efc1) ([(4, 3), (1, 1), (1025, 1), (5, 1), (6, 1), (2, 1), (4, 2), (2, 2), (5, 2)].map
        (fun p => cfgS 0 0 p.1 p.2)) = [5, 0xE, 0xE, 0xE, 0xE, 0, 0xE, 0, 0] := by decide +kernel
theorem clauses_efGetp : codes (.efGetp 2 .efc0) ([regs, past (el pb5 0 0) 2] ++ fit (el pb5 0 0) 2 1) = [0xD, 2, 3, 0] := by
  decide +kernel
theorem clauses_efTrace : codes (.efTrace 0 0 .efc0) ([two 3 5 0 5] ++ src (el pb5 3 0) 0 ++ [(el pb5 3 0).setLen 0 4, el pb5 3 0])
    = [0xD, 2, 2, 0xC, 0] := by decide +kernel
theorem clauses_efBinary : [.efAdd 2 0 1 .efc0, .efMul 2 0 1 .efc0].map (fun i => codes i ([two 3 5 3 5] ++ src (el pb5 3 3) 0
    ++ [(el pb5 3 3).setLen 0 6] ++ src (el pb5 3 3) 1 ++ [(el pb5 3 3).setLen 1 4, past (el pb5 3 3) 2]
    ++ fit (el pb5 3 3) 2 1)) = List.replicate 2 [0xD, 2, 2, 0xC, 2, 2, 0xC, 2, 3, 0] := by decide +kernel
theorem clauses_efUnary : [.efSqr 2 0 .efc0, .efSqrt 2 0 .efc0, .efInv 2 0 .almostInverse .efc0, .efHtrace 2 0 .efc0].map
    (fun i => codes i ([two 3 5 3 5] ++ src (el pb5 3 3) 0 ++ [(el pb5 3 3).setLen 0 6, past (el pb5 3 3) 2]
      ++ fit (el pb5 3 3) 2 1)) = List.replicate 4 [0xD, 2, 2, 0xC, 2, 3, 0] := by decide +kernel
theorem clauses_efUnary_own : [code (.efInv 2 0 .almostInverse .efc0) (el pb5 0 0), code (.efHtrace 2 0 .efc0) (el pb4 6 0)]
    = [9, 0x16] := by decide +kernel
theorem clauses_efSolveq : codes (.efSolveq 2 0 .efc0) ([two 3 5 3 5] ++ src (el pb5 0x12 3) 0 ++ [(el pb5 0x12 3).setLen 0 6,
    past (el pb5 0x12 3) 2, el pb5 3 3] ++ fit (el pb5 0x12 3) 2 1 ++ fit (el pb5 0 3) 2 1)
    = [0xD, 2, 2, 0xC, 2, 0x11, 3, 0, 3, 0] := by decide +kernel

/-- A search of `k` candidates so far, at most `cap` of them, with the environment's next answers. -/
def searching (s : State) (cap k : Nat) (l : List Nat) : State :=
  { answers (s.accept 0) l with itercap := BitVec.ofNat 32 cap, candidates := k }

/-- PHASE, ERRCODE, ITERCNT and the candidates drawn, after a turn of a search. -/
def turn (i : Instr) (s : State) : List Nat :=
  [if (run i s).phase = .busy then 1 else 0, (run i s).status.errcode.toNat, (run i s).itercnt.toNat, (run i s).candidates]

theorem clauses_efSolveq_search : [turn (.efSolveq 2 0 .efc0) (searching (el pb4 6 0) 3 3 [9]),
    turn (.efSolveq 2 0 .efc0) (searching (el pb4 6 0) 3 2 [1]), turn (.efSolveq 2 0 .efc0) (searching (room (el pb4 6 0) 2 0) 3 2 [9]),
    turn (.efSolveq 2 0 .efc0) (searching (el pb4 6 0) 3 2 [9]), turn (.efSolveq 2 0 .efc0) (searching (el pb4 6 0) 0 5 [1])]
    = [[0, 0x12, 3, 0], [1, 0, 0, 3], [0, 3, 3, 0], [0, 0, 3, 0], [1, 0, 0, 6]] := by decide +kernel
theorem clauses_efRoot : codes (.efRoot 2 .efc1) [withE both .efc1 ExtField.none, withE both .efc0 ExtField.none, past both 2,
    withE both .efc0 pb5] = [0xD, 0xD, 2, 0x10] := by decide +kernel
theorem clauses_efRoot_search : [turn (.efRoot 2 .efc1) (searching both 3 3 [0, 3]), turn (.efRoot 2 .efc1) (searching both 3 2 [0, 5]),
    turn (.efRoot 2 .efc1) (searching (room both 2 0) 3 2 [0, 3]), turn (.efRoot 2 .efc1) (searching both 3 2 [0, 3])]
    = [[0, 0x12, 3, 0], [1, 0, 0, 3], [0, 3, 3, 0], [0, 0, 3, 0]] := by decide +kernel

/-- A cache of `k` entries of other fields. -/
def cached (s : State) (k : Nat) : State :=
  { s with cob := List.replicate k { srcId := 9, dstId := 9, n := 4, rows := [] } }

theorem clauses_efCob : codes (.efCob .efc0) [withE both .efc0 ExtField.none, withE both .efc1 ExtField.none, withE both .efc0 pb5,
    withE both .efc0 { pb4 with fieldId := 2 }, cached both 15] = [0xD, 0xD, 0x10, 0x10, 0x13] := by decide +kernel
theorem clauses_efCob_search : [turn (.efCob .efc0) (searching (cached both 14) 3 3 [0, 3]),
    turn (.efCob .efc0) (searching (cached both 14) 3 2 [0, 5]), turn (.efCob .efc0) (searching (cached both 14) 3 2 [0, 3])]
    = [[0, 0x12, 3, 0], [1, 0, 0, 3], [0, 0, 3, 0]] := by decide +kernel

/-- The polynomial-basis context of NB4's polynomial: one polynomial, two kinds. -/
def pb1F : ExtField := polyContext 4 1 0x1F

theorem clauses_efConv : codes (.efConv 2 0 .efc0) ([withE both .efc0 ExtField.none, withE both .efc1 ExtField.none] ++ src both 0
    ++ [both.setLen 0 5, past both 2]) = [0xD, 0xD, 2, 2, 0xC, 2] := by decide +kernel
theorem clauses_efConv_clone : codes (.efConv 2 0 .efc0) ([{ withE both .efc0 pb1F with params := { Config.reference with acrossKinds := .refuse } }]
    ++ fit (withE both .efc0 pb1F) 2 1) = [0x10, 3, 0] ∧ out (.efConv 2 0 .efc0) (withE both .efc0 pb1F) 2 1 = [0, 4, 0xB] := by
  decide +kernel

/-- The two normal bases of degree 2 have one polynomial: with CLONE_ACROSS_KINDS = refuse, EF.CONV between them still clones
(93 I11), and between one of them and the polynomial basis it does not. -/
def degree2 (A B : ExtField) : State :=
  { load (withE (withE regs .efc0 A) .efc1 B) 0 2 [1] with params := { Config.reference with acrossKinds := .refuse } }

theorem clauses_efConv_kinds : codes (.efConv 2 0 .efc0) [degree2 (onbContext .onb1 2 1) (onbContext .onb2 2 2),
    degree2 (onbContext .onb2 2 1) (onbContext .onb1 2 2), degree2 (polyContext 2 1 7) (polyContext 2 2 7),
    degree2 (polyContext 2 1 7) (onbContext .onb2 2 2), degree2 (onbContext .onb1 2 1) (polyContext 2 2 7)]
    = [0, 0, 0, 0x10, 0x10] := by decide +kernel

/-- A cached matrix of the two fields in EFC0 and EFC1, the identity, for degree `n`. -/
def hit (n : Nat) : State := { both with cob := [{ srcId := 1, dstId := 2, n := n, rows := [1, 2, 4, 8] }] }

theorem clauses_efConv_cache : codes (.efConv 2 0 .efc0) ([withE both .efc0 pb5 |>.setLen 0 5, withE both .efc0 { pb4 with fieldId := 2 }, hit 5]
    ++ fit (hit 4) 2 1) = [0x10, 0x10, 0x10, 3, 0] := by decide +kernel
theorem clauses_efConv_search : code (.efConv 2 0 .efc0) (cached both 15) = 0x13
    ∧ [turn (.efConv 2 0 .efc0) (searching both 3 3 [0, 3]), turn (.efConv 2 0 .efc0) (searching both 3 2 [0, 5]),
       turn (.efConv 2 0 .efc0) (searching (room both 2 0) 3 2 [0, 3]), turn (.efConv 2 0 .efc0) (searching both 3 2 [0, 3])]
      = [[0, 0x12, 3, 0], [1, 0, 0, 3], [0, 3, 3, 0], [0, 0, 3, 0]] := by decide +kernel

/-- A 2 × 3 matrix at D0 and a 3 × 2 matrix at D1. -/
def m23 : State := loadMat (loadMat regs 0 2 3 [5, 3]) 1 3 2 [1, 2, 3]

theorem clauses_m2Mul : codes (.m2Mul 2 0 1) (src m23 0 ++ [m23.setShape 0 0 3, m23.setShape 0 2 0] ++ src m23 1
    ++ [m23.setShape 1 0 2, m23.setShape 1 3 0, past m23 2, m23.setShape 1 2 2] ++ fit m23 2 2)
    = [2, 2, 0xC, 0xC, 2, 2, 0xC, 0xC, 2, 0xC, 3, 0] := by decide +kernel
theorem clauses_m2Vmul : codes (.m2Vmul 2 1 0) (src (load m33 1 3 [5]) 1 ++ src (load m33 1 3 [5]) 0
    ++ [(load m33 1 3 [5]).setShape 0 0 3, past (load m33 1 3 [5]) 2, load m33 1 4 [5]] ++ fit (load m33 1 3 [5]) 2 1)
    = [2, 2, 2, 2, 0xC, 2, 0xC, 3, 0] := by decide +kernel
theorem clauses_m2Mulv : codes (.m2Mulv 2 0 1) (src (load m33 1 3 [5]) 0 ++ [(load m33 1 3 [5]).setShape 0 3 0]
    ++ src (load m33 1 3 [5]) 1 ++ [past (load m33 1 3 [5]) 2, load m33 1 2 [1]] ++ fit (load m33 1 3 [5]) 2 1)
    = [2, 2, 0xC, 2, 2, 2, 0xC, 3, 0] := by decide +kernel
theorem clauses_m2Inv : codes (.m2Inv 2 0) (src m33 0 ++ [m33.setShape 0 0 3, past m33 2, m33.setShape 0 2 3,
    loadMat regs 0 3 3 [3, 6, 5], loadMat regs 0 2 2 [1, 0]] ++ fit m33 2 3) = [2, 2, 0xC, 2, 0xC, 0xB, 0xB, 3, 0] := by decide +kernel
theorem clauses_m2Trn : codes (.m2Trn 2 0) (src m33 0 ++ [m33.setShape 0 3 0, past m33 2] ++ fit m33 2 3)
    = [2, 2, 0xC, 2, 3, 0] := by decide +kernel
theorem clauses_m2Isz : codes (.m2Isz 0 0) (src m33 0 ++ [m33.setShape 0 0 3, m33]) = [2, 2, 0xC, 0] := by decide +kernel

/-- A byte image at D0. -/
def image (b : Nat) (ws : List Nat) : State := load regs 0 b ws

theorem clauses_m2Dec : codes (.m2Dec 2 0) (src (image 9 [1, 1, 0]) 0 ++ [past (image 9 [1, 1, 0]) 2, image 7 [1, 1, 0],
    image 9 [0, 1, 0], image 9 [2 ^ 31, 1, 0], image 9 [1, 0, 0], image 9 [1, 2 ^ 31, 0], image 8 [1, 1, 0], image 10 [1, 1, 0],
    image 9 [1, 1, 2]] ++ fit (image 9 [1, 1, 1]) 2 1)
    = [2, 2, 2, 0x15, 0x15, 0x15, 0x15, 0x15, 0x15, 0x15, 0x15, 3, 0] := by decide +kernel
theorem clauses_m2Enc : codes (.m2Enc 2 0) (src m33 0 ++ [m33.setShape 0 0 3, past m33 2] ++ fit m33 2 3)
    = [2, 2, 0xC, 2, 3, 0] := by decide +kernel

/-- A 2 × 2 matrix over GF(2^4) at D0. -/
def mm (l : List Nat) : State := loadMat (gf16 []) 0 2 2 l

theorem clauses_m2mInv : codes (.m2mInv 2 0) ([loadMat regs 0 2 2 [1, 2, 3, 4]] ++ src (mm [1, 2, 3, 4]) 0
    ++ [(mm [1, 2, 3, 4]).setShape 0 0 2, past (mm [1, 2, 3, 4]) 2, (mm [1, 2, 3, 4]).setShape 0 1 2, mm [1, 2, 3, 0x10],
        mm [1, 2, 2, 4]] ++ fit (mm [1, 2, 3, 4]) 2 4) = [0xD, 2, 2, 0xC, 2, 0xC, 0xF, 0xB, 3, 0] := by decide +kernel

/-- A byte image over GF(2^4) at D0. -/
def imageM (b : Nat) (ws : List Nat) : State := load (gf16 []) 0 b ws

theorem clauses_m2mDec : codes (.m2mDec 2 0) ([image 5 [1, 1]] ++ src (imageM 5 [1, 1]) 0 ++ [past (imageM 5 [1, 1]) 2,
    imageM 3 [1, 1], imageM 5 [0, 1], imageM 5 [2 ^ 31, 1], imageM 7 [2, 0x030201], imageM 4 [1, 1], imageM 5 [1, 0x10]]
    ++ fit (imageM 5 [1, 0xF]) 2 1) = [0xD, 2, 2, 2, 0x15, 0x15, 0x15, 0x15, 0x15, 0xF, 3, 0] := by decide +kernel
theorem clauses_m2mEnc : codes (.m2mEnc 2 0) ([loadMat regs 0 2 2 [1, 2, 3, 4]] ++ src (mm [1, 2, 3, 4]) 0
    ++ [(mm [1, 2, 3, 4]).setShape 0 2 0, past (mm [1, 2, 3, 4]) 2, mm [1, 2, 3, 0x10]] ++ fit (mm [1, 2, 3, 4]) 2 2)
    = [0xD, 2, 2, 0xC, 2, 0xF, 3, 0] := by decide +kernel

/-- The same polynomials without a field. -/
def noField (s : State) : State := { s with sf := State.reset.sf }

/-- The common checks of a Goppa command with sources D0 and D1 and destination D2, from states that pass them. -/
def gpChecks (s bad0 bad1 : State) : List State := [noField s] ++ src s 0 ++ src s 1 ++ [past s 2, bad0, bad1]

theorem clauses_gpBinary : [.gpAdd 2 0 1, .gpMul 2 0 1].map (fun i => codes i (gpChecks (gp [2, 3] [1, 1]) (gp [2, 0x10] [1, 1])
    (gp [2, 3] [0x10, 1]))) = List.replicate 2 [0xD, 2, 2, 2, 2, 2, 0xF, 0xF] := by decide +kernel
theorem clauses_gpBinary_cap : codes (.gpAdd 2 0 1) (fit (gp [2, 3] [1, 1]) 2 2) ++ codes (.gpMul 2 0 1) (fit (gp [2, 3] [1, 1]) 2 3)
    = [3, 0, 3, 0] := by decide +kernel
theorem clauses_gpSmul : codes (.gpSmul 2 0 1) ([noField (gp [2, 3] [])] ++ src (scal (gp [2, 3] []) 1 [7]) 0
    ++ [past (gp [2, 3] []) 2, scal (gp [2, 0x10] []) 1 [7], scal (gp [2, 3] []) 1 [0x10]]
    ++ fit (scal (gp [2, 3] []) 1 [7]) 2 2) = [0xD, 2, 2, 2, 0xF, 0xF, 3, 0] := by decide +kernel
theorem clauses_gpDiv : codes (.gpDiv 2 0 1 3) (gpChecks (gp [1, 0, 0, 1] [8, 1, 1]) (gp [0x10] [8, 1, 1]) (gp [1] [0x10])
    ++ [past (gp [1, 0, 0, 1] [8, 1, 1]) 3, gp [1] [0], gp [1] []] ++ fit (gp [1, 0, 0, 1] [8, 1, 1]) 2 2
    ++ fit (gp [1, 0, 0, 1] [8, 1, 1]) 3 2 ++ [(gp [1, 0, 0, 1] [8, 1, 1]).setD 3 (desc 33 16),
        (gp [1, 0, 0, 1] [8, 1, 1]).setD 3 (desc 34 16)])
    = [0xD, 2, 2, 2, 2, 2, 0xF, 0xF, 2, 7, 7, 3, 0, 3, 0, 4, 0] := by decide +kernel
theorem clauses_gpMod : codes (.gpMod 2 0 1) (gpChecks (gp [1, 0, 0, 1] [8, 1, 1]) (gp [0x10] [8, 1, 1]) (gp [1] [0x10])
    ++ [gp [1] [0]] ++ fit (gp [1, 0, 0, 1] [8, 1, 1]) 2 2) = [0xD, 2, 2, 2, 2, 2, 0xF, 0xF, 7, 3, 0] := by decide +kernel
theorem clauses_gpGcd : codes (.gpGcd 2 0 1) (gpChecks (gp [2, 3, 1] [1, 1]) (gp [0x10] [1]) (gp [1] [0x10])
    ++ [gp [0] [], gp [0] [1]] ++ fit (gp [2, 3, 1] [1, 1]) 2 2) = [0xD, 2, 2, 2, 2, 2, 0xF, 0xF, 8, 0, 3, 0] := by decide +kernel
theorem clauses_gpMmul : codes (.gpMmul 2 0 1 4) (gpChecks (gp [3, 5] [7, 1]) (gp [0x10] [1]) (gp [1] [0x10])
    ++ src (gp [3, 5] [7, 1]) 4 ++ [load (gp [3, 5] [7, 1]) 4 1 [0x10], load (gp [3, 5] [7, 1]) 4 1 [0], load (gp [3, 5] [7, 1]) 4 1 [5],
        load (gp [3, 5] [7, 1]) 4 2 [5, 1]] ++ fit (gp [3, 5] [7, 1]) 2 2)
    = [0xD, 2, 2, 2, 2, 2, 0xF, 0xF, 2, 2, 0xF, 7, 5, 0, 3, 0] := by decide +kernel
theorem clauses_gpMinv : codes (.gpMinv 2 0 1) (gpChecks (gp [3, 5] [8, 1, 1]) (gp [0x10] [8, 1, 1]) (gp [1] [0x10])
    ++ [gp [1] [0], gp [1] [5], gp [1, 1] [1, 0, 1], gp [1] [5, 1]] ++ fit (gp [3, 5] [8, 1, 1]) 2 2)
    = [0xD, 2, 2, 2, 2, 2, 0xF, 0xF, 7, 5, 0xA, 0, 3, 0] := by decide +kernel
theorem clauses_gpMdiv : codes (.gpMdiv 2 0 1 4) (gpChecks (gp [3, 5] [7, 1]) (gp [0x10] [1]) (gp [1] [0x10])
    ++ src (gp [3, 5] [7, 1]) 4 ++ [load (gp [3, 5] [7, 1]) 4 1 [0x10], load (gp [3, 5] [7, 1]) 4 1 [0], load (gp [3, 5] [7, 1]) 4 1 [5],
        load (gp [3, 5] [1, 1]) 4 3 [1, 0, 1]] ++ fit (gp [3, 5] [7, 1]) 2 2)
    = [0xD, 2, 2, 2, 2, 2, 0xF, 0xF, 2, 2, 0xF, 7, 5, 0xA, 3, 0] := by decide +kernel
theorem clauses_gpMaps : [.gpSqm 2 0 1, .gpSqrtm 2 0 1].map (fun i => codes i ([noField (mapped [3, 5])] ++ src (mapped [3, 5]) 0
    ++ src (mapped [3, 5]) 1 ++ [past (mapped [3, 5]) 2, (mapped [3, 5]).setShape 1 0 0, (mapped [3, 5]).setShape 1 2 1, mapped [0x10],
        loadMat (mapped [3, 5]) 1 2 2 [1, 8, 0, 0x10], mapped [1, 0, 1]] ++ fit (mapped [3, 5]) 2 2))
    = List.replicate 2 [0xD, 2, 2, 2, 2, 2, 0xC, 0xC, 0xF, 0xF, 0xC, 3, 0] := by decide +kernel
/-- The other orientation of the map (93 I13). -/
theorem clauses_gpMaps_orient : out (.gpSqm 2 0 1) { mapped [3, 5] with params := { Config.reference with mapOrient := .rowIsInput } } 2 2
    = [0, 2, 5, 0xC] := by decide +kernel
theorem clauses_gpScalars : [.gpIrr 0 0, .gpDeg 0 0].map (fun i => codes i ([noField (gp [1] [])] ++ src (gp [1] []) 0
    ++ [gp [0x10] [], gp [0xF] []])) = List.replicate 2 [0xD, 2, 2, 0xF, 0] := by decide +kernel
theorem clauses_gpMono : codes (.gpMono 2 0 1) ([noField (gp [1] [])] ++ src (scal (gp [1] []) 1 [3]) 0 ++ [past (gp [1] []) 2,
    scal (gp [0x10] []) 1 [3]] ++ fit (scal (gp [1] []) 1 [3]) 2 4 ++ [scal (gp [1] []) 1 [0xFFFFFFFF], scal (gp [0] []) 1 [0xFFFFFFFF]])
    = [0xD, 2, 2, 2, 0xF, 3, 0, 3, 0] := by decide +kernel
theorem clauses_gpAddm : codes (.gpAddm 2 0 1) ([noField (gp [1] [])] ++ src (scal (gp [1] []) 1 [3]) 0 ++ [past (gp [1] []) 2,
    scal (gp [0x10] []) 1 [3]] ++ fit (scal (gp [1] []) 1 [3]) 2 4) = [0xD, 2, 2, 2, 0xF, 3, 0] := by decide +kernel

/-! ### States that meet the hypotheses of the statements -/

/-- The base state with a command accepted and inputs pending. -/
def issued (w : Word) (l : List Input) : State := (regs.accept w).withInputs l

theorem witness_DecodeOfEncodeIsTheCommand : [Instr.efCfg 0 5 .efc1, .bpRedt 7 7 6, .bpRedp 7 7 4, .gpDiv 7 7 7 7].all
    Instr.wellFormed = true := by decide
theorem witness_EncodeOfDecodeIsTheWord : decode 0x03000B34 = .ok (.efInv 3 1 .repeatedSquaring .efc1) := by rfl
theorem witness_EngineTurn_runs : (issued 0x00004212 []).phase = .busy ∧ decode (issued 0x00004212 []).cmd = .ok (.bpMulk 2 0 1)
    ∧ (issued 0x00004212 []).env.inputs = [] ∧ (issued 0x00004212 [.engine]).phase = .busy
    ∧ (issued 0x00004212 [.engine]).env.inputs = .engine :: [] := ⟨rfl, rfl, rfl, rfl, rfl⟩
theorem witness_EngineTurn_illegal : (issued 0x04000000 []).phase = .busy ∧ decode (issued 0x04000000 []).cmd = .error .reservedBits
    ∧ (issued 0x04000000 []).env.inputs = [] ∧ (issued 0x04000000 [.engine]).env.inputs = .engine :: [] := ⟨rfl, rfl, rfl, rfl⟩
theorem witness_AcceptedIssueRunsTheCommand : (Instr.bpMulk 2 0 1).wellFormed = true
    ∧ (regs.withInputs [hostWriteAt regs.params 0x004 (encode (.bpMulk 2 0 1)), .engine]).phase = .idle
    ∧ (regs.withInputs [hostWriteAt regs.params 0x004 (encode (.bpMulk 2 0 1)), .engine]).status.err = false
    ∧ (regs.withInputs [hostWriteAt regs.params 0x004 (encode (.bpMulk 2 0 1)), .engine]).env.inputs
        = hostWriteAt regs.params 0x004 (encode (.bpMulk 2 0 1)) :: [.engine] := ⟨rfl, rfl, rfl, rfl⟩

/-- IDLE with a pending error, and inputs. -/
def failed (l : List Input) : State := { regs with status := { regs.status with err := true, errcode := 5 } }.withInputs l

theorem witness_RejectedIssue_busy : (issued 0 [hostWriteAt regs.params 0x004 1]).phase = .busy
    ∧ (issued 0 [hostWriteAt regs.params 0x004 1]).env.inputs = hostWriteAt regs.params 0x004 1 :: [] := ⟨rfl, rfl⟩
theorem witness_RejectedIssue_error : (failed [hostWriteAt regs.params 0x004 1]).status.err = true
    ∧ (failed [hostWriteAt regs.params 0x004 1]).env.inputs = hostWriteAt regs.params 0x004 1 :: [] := ⟨rfl, rfl⟩
theorem witness_Recovery : (failed [hostWriteAt regs.params 0x008 4, hostWriteAt regs.params 0x004 1]).phase = .idle
    ∧ (failed [hostWriteAt regs.params 0x008 4, hostWriteAt regs.params 0x004 1]).status.err = true
    ∧ (4 : Word).getLsbD 2 = true
    ∧ (failed [hostWriteAt regs.params 0x008 4, hostWriteAt regs.params 0x004 1]).env.inputs
        = hostWriteAt regs.params 0x008 4 :: hostWriteAt regs.params 0x004 1 :: [] := ⟨rfl, rfl, rfl, rfl⟩

/-- Errors with no candidate drawn, at the limit, and after a root. -/
theorem witness_ErrorIsPrecise : (∃ t, exec (.bpAdd 2 0 1) (past regs 0) = .next t ∧ (past regs 0).status.err = false
      ∧ t.status.err = true)
    ∧ (∃ t, exec (.efRoot 2 .efc1) (searching both 3 3 [0, 3]) = .next t ∧ (searching both 3 3 [0, 3]).status.err = false
      ∧ t.status.err = true)
    ∧ (∃ t, exec (.efRoot 2 .efc1) (searching (room both 2 0) 3 2 [0, 3]) = .next t
      ∧ (searching (room both 2 0) 3 2 [0, 3]).status.err = false ∧ t.status.err = true) := by
  have h : ∀ (i : Instr) (s : State), (match exec i s with | .next t => t.status.err | .fault _ => false | .refused _ => false) = true →
      ∃ t, exec i s = .next t ∧ t.status.err = true := by
    intro i s hs
    cases he : exec i s with
    | next t => exact ⟨t, rfl, by simpa [he] using hs⟩
    | fault f => simp [he] at hs
    | refused r => simp [he] at hs
  obtain ⟨t, h1, h2⟩ := h (.bpAdd 2 0 1) (past regs 0) (by decide +kernel)
  obtain ⟨u, h3, h4⟩ := h (.efRoot 2 .efc1) (searching both 3 3 [0, 3]) (by decide +kernel)
  obtain ⟨v, h5, h6⟩ := h (.efRoot 2 .efc1) (searching (room both 2 0) 3 2 [0, 3]) (by decide +kernel)
  exact ⟨⟨t, h1, rfl, h2⟩, ⟨u, h3, rfl, h4⟩, ⟨v, h5, rfl, h6⟩⟩

/-- A command answers a next state, and the first and last bytes outside its destination lie outside. -/
theorem witness_CommandsStoreOnlyInTheirDestinations : (∃ t, exec .nop regs = .next t)
    ∧ ¬ inWords 127 (regs.base 2) (regs.cap 2) ∧ ¬ inWords 192 (regs.base 2) (regs.cap 2)
    ∧ inWords 128 (regs.base 2) (regs.cap 2) ∧ inWords 191 (regs.base 2) (regs.cap 2) :=
  ⟨⟨_, rfl⟩, by unfold inWords; decide, by unfold inWords; decide, by unfold inWords; decide, by unfold inWords; decide⟩
theorem witness_CommandsKeepEveryOtherRegister : (∃ t, exec .nop regs = .next t) ∧ (3 : SReg) ∉ (Instr.sfAdd 0 1 2).scalarDests
    ∧ (3 : DReg) ∉ (Instr.bpAdd 2 0 1).descDests := ⟨⟨_, rfl⟩, by decide, by decide⟩

/-- The invariant holds of a state that is not reset, and its next step goes on. -/
theorem witness_StepKeepsTheMachineInvariant : (issued 0 []).Inv ∧ step (issued 0 []) = .next ((issued 0 []).complete 0) :=
  ⟨{ params := by decide
     omForm := by decide
     omRange := by intro c h; cases h
     busy := fun _ => ⟨rfl, rfl⟩
     idle := by intro h; cases h
     limit := by intro h; exact absurd rfl h
     noError := fun _ => rfl
     errorCode := by intro h; cases h
     smallField := by decide
     contexts := by intro c; cases c <;> decide
     cache := by decide
     cacheRows := by intro e h; cases h }, rfl⟩

/-- A block that starts at host address 4096, and an access just below it. -/
theorem witness_OnlyAccessesOutsideTheBlockFault :
    ({ regs with params := { Config.reference with blockBase := 4096 } }.withInputs [.host (.read 4095 4)]).env.inputs
      = .host (.read 4095 4) :: [] ∧ (Access.read 4095 4).addr < 4096 := ⟨rfl, by decide⟩
theorem witness_ResetEvent : (issued 0 [.reset]).env.inputs = .reset :: [] ∧ (∃ t, step (issued 0 [.reset]) = .next t) :=
  ⟨rfl, ⟨_, rfl⟩⟩
theorem witness_StatusWrite : (failed []).statusWord = 0x504
    ∧ (match hostAccess (.write ((failed []).params.blockBase + 0x008) 4 4) (failed []) with
       | .next t => t.statusWord | .fault _ => 1 | .refused _ => 1) = 0 := by decide +kernel

/-- The first and the last location of each blocked group. -/
theorem witness_BusyBlocks : (issued 0 []).phase = .busy ∧ (∃ k : Fin 8, 0x05C = 0x040 + 4 * k.val)
    ∧ (∃ (d : Fin 8) (f : Fin 5), 0x1F0 = 0x100 + 0x20 * d.val + 4 * f.val)
    ∧ (∃ w, w < (issued 0 []).params.omWords.toNat ∧ 0x13FFFC = 0x100000 + 4 * w)
    ∧ ([0x040, 0x05C, 0x100, 0x1F0, 0x100000, 0x13FFFC].map (fun o => ((issued 0 []).hostRead o 4 ==
        (issued 0 []).setBusyacc.respond (.data 0)))) = List.replicate 6 true :=
  ⟨rfl, ⟨7, rfl⟩, ⟨7, 4, rfl⟩, ⟨65535, by decide, rfl⟩, by decide +kernel⟩

/-- Stored and reserved offsets at the ends of their ranges. -/
theorem witness_HostPort : regs.phase = .idle ∧ (∃ k : Fin 8, 0x040 = 0x040 + 4 * k.val)
    ∧ (∃ (d : Fin 8) (f : Fin 5), 0x110 = 0x100 + 0x20 * d.val + 4 * f.val)
    ∧ (∃ w, w < regs.params.omWords.toNat ∧ 0x100000 = 0x100000 + 4 * w)
    ∧ (∃ (d f : Nat), d < 8 ∧ 5 ≤ f ∧ f < 8 ∧ 0x114 = 0x100 + 0x20 * d + 4 * f)
    ∧ ([0x03C, 0x060, 0x0FC, 0x114, 0x1FC, 0x240, 0xFFFFC, 0x140000, 0x140004].map (locate 65536)) = List.replicate 9 .reserved
    ∧ ([0x040, 0x05C, 0x110, 0x018, 0x100000, 0x13FFFC].map (fun o =>
        ((regs.hostWrite o 4 0x12345678).hostRead o 4).env.response)) = List.replicate 6 (.data 0x12345678)
    ∧ regs.hostWrite 0x100002 4 1 = regs.respond .busError :=
  ⟨rfl, ⟨0, rfl⟩, ⟨0, 4, rfl⟩, ⟨0, by decide, rfl⟩, ⟨0, 5, by decide, by decide, by decide, rfl⟩, by decide +kernel, by decide +kernel,
    by decide +kernel⟩
/-- Reads of registers in a state that is not reset: STATUS and IE bit by bit, the contexts, a cache entry, a parameter. -/
theorem witness_HostPort_reads : ([0x004, 0x008, 0x00C, 0x014, 0x028, 0x02C, 0x030, 0x204, 0x208, 0x20C, 0x210, 0x224, 0x23C].map
    (fun o => (((({ hit 4 with ie := { doneIE := false, errIE := true }, errcmd := 9 }).accept 5).setBusyacc).hostRead o 4).env.response))
    = [.data 5, .data 0x11, .data 2, .data 1, .data 0, .data 1, .data 65536, .data 0, .data 4, .data 1, .data 1, .data 1, .data 0] := by
  decide +kernel
/-- The first and the last scalar register, descriptor field and OM word, each with a value of its own, read at their offsets. -/
theorem witness_HostPort_places : ([0x040, 0x05C, 0x100, 0x104, 0x108, 0x10C, 0x110, 0x1F0, 0x100000, 0x13FFFC].map (fun o =>
    ((((scal regs 0 [1, 2, 3, 4, 5, 6, 7, 8]).setD 0 { base := 11, len := 12, rows := 13, cols := 14, cap := 15 }).writeWords 0 [21]
      |>.writeWords 65535 [22]).hostRead o 4).env.response))
    = [.data 1, .data 8, .data 11, .data 12, .data 13, .data 14, .data 15, .data 16, .data 21, .data 22] := by decide +kernel
/-- IE, the RO offsets and the reserved offsets at the ends of their ranges while BUSY. -/
theorem witness_HostPort_busy : (issued 0 []).phase = .busy ∧ (∃ k : Fin 7, 0x038 = 0x020 + 4 * k.val)
    ∧ (∃ k : Fin 16, 0x23C = 0x200 + 4 * k.val)
    ∧ (((issued 0 []).hostWrite 0x00C 4 0xFFFFFFFE).hostRead 0x00C 4).env.response = .data 2
    ∧ ((regs.hostWrite 0x00C 4 0xFFFFFFFF).hostRead 0x00C 4).env.response = .data 3
    ∧ ([0x000, 0x010, 0x014, 0x01C, 0x020, 0x038, 0x200, 0x23C, 0x03C, 0x060, 0x0FC, 0x240, 0xFFFFC, 0x140000].map (fun o =>
        (issued 0 []).hostWrite o 4 0xFFFFFFFF == (issued 0 []).respond .written)) = List.replicate 14 true
    ∧ ([0x03C, 0x060, 0x0FC, 0x240, 0xFFFFC, 0x140000].map (fun o => (issued 0 []).hostRead o 4 == (issued 0 []).respond (.data 0)))
      = List.replicate 6 true :=
  ⟨rfl, ⟨6, rfl⟩, ⟨15, rfl⟩, by decide +kernel, by decide +kernel, by decide +kernel, by decide +kernel⟩

theorem witness_legal : regs.params.legal = true ∧ State.reset.params.legal = true := by decide
theorem witness_BpMulcAndBpMulk : (Instr.bpMulc 2 0 1 = .bpMulc 2 0 1 ∨ Instr.bpMulc 2 0 1 = .bpMulk 2 0 1)
    ∧ (Instr.bpMulk 2 0 1 = .bpMulc 2 0 1 ∨ Instr.bpMulk 2 0 1 = .bpMulk 2 0 1) := by decide
theorem witness_BpDivAndBpRem : (two 0x27 6 0xB 4).poly 1 ≠ 0 ∧ (two 0x27 6 0 4).poly 1 = 0 ∧ regs.params.legal = true := by
  decide +kernel
theorem witness_IrreducibilityTest : irreducible true 0x13 = true ∧ PolyIrreducible 0x13 ∧ irreducible true 0x15 = false
    ∧ ¬ PolyIrreducible 0x15 ∧ irreducible false 2 = true ∧ PolyIrreducible 2 := by decide +kernel
theorem witness_BpBit : Instr.bpBset 0 1 = .bpBset 0 1 ∧ Instr.bpBclr 0 1 = .bpBclr 0 1 ∧ Instr.bpBxor 0 1 = .bpBxor 0 1
    ∧ regs.params.legal = true := by decide
theorem witness_SmallField : (gf16 [0xF, 0xF]).sf.ok = true ∧ (gf16 [0xF, 0xF]).sf.valid = true
    ∧ PolyIrreducible (gf16 [0xF, 0xF]).sf.poly.toNat ∧ regs.sf.ok = true ∧ (field regs 31 0x80000009).sf.ok = true := by
  decide +kernel
theorem witness_EfCfgPolynomialBasis : (cfgS 0x13 5 4 0).params.legal = true ∧ (cfgS 0x13 5 4 0).Sb 0 1 = 0
    ∧ ([0x13, 0x11B, 0x1F, 0x7F].map weight) = [3, 5, 5, 7] := by decide +kernel
theorem witness_EfCfgNormalBasis : 2 < ((cfgS 0 0 4 3).Sb 0 1).toNat ∧ (cfgS 0 0 4 1).Sb 0 1 = 1 ∧ (cfgS 0 0 5 2).Sb 0 1 = 2 := by
  decide +kernel
theorem witness_Contexts : [pb4, pb4', pb5, pb8, nb4, nb5, pb1F, ExtField.none].all (fun E => E.ok Config.reference) = true
    ∧ regs.params.legal = true := by decide +kernel
theorem witness_EfUnary : ((el pb5 3 0).efc .efc0).ok (el pb5 3 0).params = true ∧ (el pb5 3 0).elem pb5 0 ≠ 0 ∧ pb5.deg % 2 = 1
    ∧ ((el nb4 6 0).efc .efc0).kind = .onb1 ∧ PolyIrreducible pb5.poly ∧ PolyIrreducible pb4.poly ∧ pb4.valid = true := by decide +kernel
theorem witness_NormalBasisSquareRotates : Kind.onb1 ≠ .poly ∧ 2 ≤ (4 : Word).toNat ∧ onbExists .onb1 (4 : Word).toNat = true
    ∧ 0xF < 2 ^ (4 : Word).toNat ∧ Kind.onb2 ≠ .poly ∧ onbExists .onb2 (5 : Word).toNat = true
    ∧ (onbContext .onb1 4 2).sqr 0x8 = 0x1 := by decide +kernel

/-- R233's polynomials and R232's index maps, written out: type I of degree 4 and type II of degree 5. -/
theorem witness_EfCfgNormalBasis_values : nb4.poly = 0x1F ∧ nb5.poly = 0x37 ∧ nb4.indexMap = [1, 2, 4, 3]
    ∧ nb5.indexMap = [1, 2, 4, 3, 5] := by decide +kernel

/-- A candidate that solves the equation, one that does not, and the limit. -/
theorem witness_EfSolveq : (el pb4 6 0).elem pb4 0 ≠ 0 ∧ pb4.trace 6 = 0 ∧ pb4.deg % 2 = 0 ∧ (searching (el pb4 6 0) 3 3 [9]).LimitReached
    ∧ ¬ (searching (el pb4 6 0) 3 2 [9]).LimitReached
    ∧ (pb4.solveRounds 6 ((searching (el pb4 6 0) 3 2 [9]).drawElem pb4).1 3).2 ≠ 0
    ∧ (pb4.solveRounds 6 ((searching (el pb4 6 0) 3 2 [1]).drawElem pb4).1 3).2 = 0 := by decide +kernel

/-- A root, no root, and the limit, for the searches of EF.ROOT, EF.COB and EF.CONV. -/
theorem witness_Searches : (searching both 3 3 [0, 3]).LimitReached ∧ ¬ (searching both 3 2 [0, 3]).LimitReached
    ∧ ((searching both 3 2 [0, 3]).drawElem nb4).2.takeAnswer.1 = 3 ∧ nb4.evalPoly pb4.poly 3 = 0 ∧ nb4.evalPoly pb4.poly 5 ≠ 0 := by
  decide +kernel
theorem witness_EfConvCache : (hit 4).cob = [] ++ { srcId := 1, dstId := 2, n := 4, rows := [1, 2, 4, 8] } :: []
    ∧ (∀ e ∈ (hit 4).cob, ∀ row ∈ e.rows, row < 2 ^ e.n) ∧ pb4.poly ≠ nb4.poly ∧ pb1F.poly = nb4.poly ∧ pb1F.kind ≠ nb4.kind
    ∧ (hit 4).efc .efc0 = pb4 ∧ (hit 4).efc (otherCtx .efc0) = nb4 := by decide +kernel
theorem witness_EfConvSearches : pb4.valid = true ∧ nb4.valid = true ∧ both.PolySource 0 ∧ both.len 0 = pb4.deg ∧ both.inOm 2
    ∧ pb4.poly ≠ nb4.poly ∧ pb4.n = nb4.n ∧ pb4.fieldId ≠ nb4.fieldId
    ∧ (∀ e ∈ both.cob, ¬ (e.srcId = pb4.fieldId ∧ e.dstId = nb4.fieldId)) ∧ both.cob.length + 2 ≤ both.params.cobEntries.toNat := by
  decide +kernel

/-- A zero and a non-zero matrix that pass the checks of M2.ISZ, and an entry that is 1. -/
theorem witness_M2Isz : (loadMat regs 0 2 2 [0, 0]).Mat2Source 0 ∧ (loadMat regs 0 2 2 [0, 0]).HasCells 0 ∧ m33.Mat2Source 0
    ∧ m33.HasCells 0 ∧ (run (.m2Isz 0 0) (loadMat regs 0 2 2 [0, 0xC])).S 0 = 1 ∧ (run (.m2Isz 0 0) m33).S 0 = 0
    ∧ (m33.readNat (m33.base 0 + 0 * wordsFor (m33.cols 0)) (wordsFor (m33.cols 0))).testBit 0 = true := by decide +kernel

/-- The header of an image and its rows, as the statement of M2.DEC names them. -/
theorem witness_M2Dec : (image 11 [3, 3, 0x070603]).imageByte ((image 11 [3, 3, 0x070603]).base 0) 0 = 3
    ∧ (image 11 [3, 3, 0x070603]).imageByte ((image 11 [3, 3, 0x070603]).base 0) 4 = 3
    ∧ (image 11 [3, 3, 0x070603]).imageByte ((image 11 [3, 3, 0x070603]).base 0) 10 = 7 := by decide +kernel
theorem witness_M2mProducts : Instr.m2mRmulm 2 0 1 = .m2mRmulm 2 0 1 ∧ Instr.m2mLmulm 2 0 1 = .m2mLmulm 2 0 1 := by decide
theorem witness_M2mDec : (imageM 8 [2, 0x04030201]).sf.ok = true
    ∧ (imageM 8 [2, 0x04030201]).imageByte ((imageM 8 [2, 0x04030201]).base 0) 7 = 4 := by decide +kernel
/-- R331's first example: the matrix, its inverse, and the field. -/
theorem witness_M2mInv : (mm [1, 2, 3, 4]).sf.ok = true ∧ PolyIrreducible (mm [1, 2, 3, 4]).sf.poly.toNat
    ∧ (mm [1, 2, 3, 4]).sf.RightInverse 2 ((mm [1, 2, 3, 4]).matM 0) [[2, 1], [8, 9]] := by
  refine ⟨by decide +kernel, by decide +kernel, ?_, ?_⟩ <;> intro i j hi hj <;> interval_cases i <;> interval_cases j <;> decide +kernel
theorem witness_Goppa : (gp [3, 5] [7, 1]).sf.ok = true ∧ PolyIrreducible (gp [3, 5] [7, 1]).sf.poly.toNat
    ∧ (gp [2, 3, 1] []).sf.ok = true ∧ 2 ≤ ((gp [2, 3, 1] []).goppa 0).length := by decide +kernel
/-- A constant and a polynomial of degree 1 over GF(2^4) are coprime; `clauses_gpMinv` has a pair that is not. -/
theorem witness_GpCoprime : GpCoprime (gp [1] [5, 1]).sf ((gp [1] [5, 1]).goppa 0) ((gp [1] [5, 1]).goppa 1)
    ∧ (gp [1] [5, 1]).goppa 1 ≠ [] ∧ 2 ≤ ((gp [1] [5, 1]).goppa 1).length := by
  refine ⟨?_, by decide +kernel, by decide +kernel⟩
  rw [show (gp [1] [5, 1]).goppa 0 = [1] by decide +kernel]
  have hp : (gp [1] [5, 1]).sf.poly.toNat = 0x13 := by decide +kernel
  refine gpCoprime_constant (fun x => ?_) ?_ Nat.one_ne_zero _
  · have hz : ∀ n, xorSum n (fun i => if x.testBit i then 0 <<< i else 0) = 0 := by
      intro n
      induction n with
      | zero => rfl
      | succ n ih => rw [xorSum, ih, Nat.zero_shiftLeft, ite_self]; rfl
    have h0 : clmul 0 x = 0 := hz (bitLen x)
    have h1 : clmul x 0 = 0 := rfl
    have h2 : polyMod 0 0x13 = 0 := by decide +kernel
    simp [SmallField.mul, hp, h0, h1, h2]
  · have hall : ∀ x, x < 16 → ∀ y, y < 16 → x ≠ 0 → y ≠ 0 → (gp [1] [5, 1]).sf.mul x y ≠ 0 := by decide +kernel
    have hm : 2 ^ (gp [1] [5, 1]).sf.m.toNat = 16 := by decide +kernel
    rw [hm]
    exact fun x y hx hy => hall x hx y hy
theorem witness_GpMaps : (mapped [3, 5]).params.mapOrient = .rowIsOutput ∧ (mapped [3, 5]).sf.ok = true
    ∧ (mapped [3, 5]).rows 1 = 2 := by decide +kernel
theorem witness_GpDeg : (gp [2, 3, 1] []).coeffs 0 = [2, 3, 1] ∧ (gp [0] []).coeffs 0 = [0] := by decide +kernel

end Sys2Proof.Tests
end

/-! ## Safety: the one fault of a step (00_scope R3, R6; 60_exceptions R406)

Every command answers a next state, so a step can only stop on its input: on a host access below BLOCK_BASE (log entry 12). -/

namespace Sys2Proof.Machine

/-! ### Every command answers a next state -/

theorem afterChecks_next {s : State} (r : Except ErrCode Unit) {last : Result} (h : ∃ t, last = .next t) :
    ∃ t, afterChecks s r last = .next t := by
  cases r with
  | ok _ => exact h
  | error e => exact ⟨_, afterChecks_error s e last⟩

theorem execEfSolveq_next (dst a : DReg) (ctx : Ctx) (s : State) : ∃ t, execEfSolveq dst a ctx s = .next t := by
  refine afterChecks_next _ ?_
  split
  · exact finish_next s _
  · split
    · exact finish_next s _
    · exact searchTurn_next s _ _

theorem execEfRoot_next (dst : DReg) (ctx : Ctx) (s : State) : ∃ t, execEfRoot dst ctx s = .next t :=
  afterChecks_next _ (searchTurn_next s _ _)

theorem execEfCob_next (ctx : Ctx) (s : State) : ∃ t, execEfCob ctx s = .next t :=
  afterChecks_next _ (searchTurn_next s _ _)

theorem convByMatrix_next (A B : ExtField) (dst : DReg) (x : Nat) (s : State) :
    ∃ t, convByMatrix A B dst x s = .next t := by
  refine afterChecks_next _ ?_
  split
  · exact finish_next s _
  · exact afterChecks_next _ (searchTurn_next s _ _)

theorem execEfConv_next (dst a : DReg) (ctx : Ctx) (s : State) : ∃ t, execEfConv dst a ctx s = .next t := by
  refine afterChecks_next _ ?_
  split
  · exact finish_next s _
  · exact convByMatrix_next _ _ dst _ s

/-- Only the four commands that may search end in anything but a `finish`. -/
theorem exec_next (i : Instr) (s : State) : ∃ t, exec i s = .next t := by
  cases i
  case efSolveq dst a ctx => exact execEfSolveq_next dst a ctx s
  case efRoot dst ctx => exact execEfRoot_next dst ctx s
  case efCob ctx => exact execEfCob_next ctx s
  case efConv dst a ctx => exact execEfConv_next dst a ctx s
  case nop => exact finish_next s (.ok s)
  case efFlush => exact finish_next s (.ok { s with cob := [] })
  case m2mRmulm | m2mRmulv | m2mLmulv | m2mLmulm => exact finish_next s (.error .notImplemented)
  all_goals exact finish_next s _

/-! ### Each input's step -/

theorem engineTurn_next (s : State) : ∃ t, engineTurn s = .next t := by
  unfold engineTurn
  split
  · exact ⟨s, rfl⟩
  · split
    · exact exec_next _ s
    · exact ⟨_, rfl⟩

theorem hostAccess_below {a : Access} {s : State} (h : a.addr < s.params.blockBase) :
    hostAccess a s = .fault (.outsideBlock a.addr) := by
  cases a with
  | read addr bytes => exact if_pos h
  | write addr bytes v => exact if_pos h

theorem hostAccess_next_iff (a : Access) (s : State) :
    (∃ t, hostAccess a s = .next t) ↔ ¬ a.addr < s.params.blockBase := by
  refine ⟨fun ⟨t, ht⟩ hlt => ?_, fun hge => ?_⟩
  · rw [hostAccess_below hlt] at ht
    cases ht
  · cases a with
    | read addr bytes => exact ⟨_, if_neg hge⟩
    | write addr bytes v => exact ⟨_, if_neg hge⟩

theorem step_of_inputs_nil {s : State} (h : s.env.inputs = []) : step s = engineTurn s := by
  simp only [step, h]

theorem step_of_inputs_engine {s : State} {rest : List Input} (h : s.env.inputs = .engine :: rest) :
    step s = engineTurn (s.withInputs rest) := by
  simp only [step, h]

theorem step_of_inputs_host {s : State} {a : Access} {rest : List Input} (h : s.env.inputs = .host a :: rest) :
    step s = hostAccess a (s.withInputs rest) := by
  simp only [step, h]

theorem step_of_inputs_reset {s : State} {rest : List Input} (h : s.env.inputs = .reset :: rest) :
    step s = .next (s.withInputs rest).resetEvent := by
  simp only [step, h]

/-! ### Safe steps -/

theorem nextOutside_of_inputs_host {s : State} {a : Access} {rest : List Input} (h : s.env.inputs = .host a :: rest) :
    s.NextOutside ↔ a.addr < s.params.blockBase := by
  refine ⟨fun ⟨b, l, hb, hlt⟩ => ?_, fun hlt => ⟨a, rest, h, hlt⟩⟩
  obtain ⟨⟨rfl⟩, -⟩ := List.cons.inj (h.symm.trans hb)
  exact hlt

theorem not_nextOutside {s : State} (h : ∀ a rest, s.env.inputs ≠ .host a :: rest) : ¬ s.NextOutside :=
  fun ⟨a, rest, hi, _⟩ => h a rest hi

theorem safeStep_iff_not_nextOutside (s : State) : s.SafeStep ↔ ¬ s.NextOutside := by
  unfold State.SafeStep
  match hi : s.env.inputs with
  | [] =>
    rw [step_of_inputs_nil hi]
    exact iff_of_true (engineTurn_next s) (not_nextOutside (by simp [hi]))
  | .engine :: rest =>
    rw [step_of_inputs_engine hi]
    exact iff_of_true (engineTurn_next _) (not_nextOutside (by simp [hi]))
  | .host a :: rest =>
    rw [step_of_inputs_host hi, nextOutside_of_inputs_host hi]
    exact hostAccess_next_iff a (s.withInputs rest)
  | .reset :: rest =>
    rw [step_of_inputs_reset hi]
    exact iff_of_true ⟨_, rfl⟩ (not_nextOutside (by simp [hi]))

/-- Settles O14, by the kinds of the next input: only a host access below BLOCK_BASE has no next state, and its step is the
fault that names the address. -/
theorem onlyAccessesOutsideTheBlockFault : Obligations.OnlyAccessesOutsideTheBlockFault := by
  unfold Obligations.OnlyAccessesOutsideTheBlockFault
  refine fun s => ⟨safeStep_iff_not_nextOutside s, fun a rest hi hlt => ?_⟩
  rw [step_of_inputs_host hi]
  exact hostAccess_below hlt

end Sys2Proof.Machine

/-! ## The numbers a configured context and the cache hold (43 R231 to R233; 44 R270, R272)

Elements, rows of a change-of-basis matrix and rows of its inverse stay below `2^n`, and the polynomial of a normal basis has
degree `n`. -/

namespace Sys2Proof.Machine

/-! ### Significant bits -/

theorem bitLen_eq_succ {a k : Nat} (ht : a.testBit k = true) (hlt : a < 2 ^ (k + 1)) : bitLen a = k + 1 := by
  have hge : 2 ^ k ≤ a := Nat.ge_two_pow_of_testBit ht
  have hne : a ≠ 0 := by have := Nat.two_pow_pos k; omega
  rw [bitLen, if_neg hne, (Nat.log2_eq_iff hne).2 ⟨hge, hlt⟩]

theorem lt_two_pow_bitLen (a : Nat) : a < 2 ^ bitLen a := by
  unfold bitLen
  split
  · rename_i h
    simp [h]
  · exact Nat.lt_log2_self

theorem testBit_of_bitLen {a k : Nat} (h : bitLen a = k + 1) : a.testBit k = true := by
  have hne : a ≠ 0 := by
    rintro rfl
    simp [bitLen] at h
  rw [bitLen, if_neg hne] at h
  have hk : a.log2 = k := by omega
  exact hk ▸ Nat.testBit_log2 hne

theorem bitLen_of_polyDeg {a n : Nat} (h : polyDeg a = (n : Int)) : bitLen a = n + 1 := by
  unfold polyDeg at h
  omega

/-! ### Sums over GF(2) and remainders -/

theorem xorSum_lt {n k : Nat} {g : Nat → Nat} (h : ∀ i, i < n → g i < 2 ^ k) : xorSum n g < 2 ^ k := by
  induction n with
  | zero => exact Nat.two_pow_pos k
  | succ n ih => exact Nat.xor_lt_two_pow (ih fun i hi => h i (by omega)) (h n (by omega))

theorem bitString_lt (n : Nat) (p : Nat → Bool) : bitString n p < 2 ^ n := by
  refine xorSum_lt fun i hi => ?_
  split
  · rw [Nat.one_shiftLeft]
    exact Nat.pow_lt_pow_right (by decide) hi
  · exact Nat.two_pow_pos n

/-- One round of the division: bit `k` is gone after a shifted subtraction, or was not there. -/
theorem lt_of_testBit_top {r k : Nat} (hr : r < 2 ^ (k + 1)) (ht : r.testBit k = false) : r < 2 ^ k := by
  refine Nat.lt_pow_two_of_testBit r fun j hj => ?_
  rcases Nat.eq_or_lt_of_le hj with rfl | hlt
  · exact ht
  · exact Nat.testBit_lt_two_pow (Nat.lt_of_lt_of_le hr (Nat.pow_le_pow_right (by decide) hlt))

theorem polyDivFrom_lt {b db : Nat} (hb : bitLen b = db + 1) {k r : Nat} (hr : r < 2 ^ (k + db)) :
    (polyDivFrom b db k r).2 < 2 ^ db := by
  induction k generalizing r with
  | zero => simpa [polyDivFrom] using hr
  | succ k ih =>
    have hr' : r < 2 ^ (k + db + 1) := by rwa [show k + db + 1 = k + 1 + db by omega]
    have hshift : b <<< k < 2 ^ (k + db + 1) := by
      have hlt : b < 2 ^ (db + 1) := hb ▸ lt_two_pow_bitLen b
      rw [Nat.shiftLeft_eq, show k + db + 1 = db + 1 + k by omega, Nat.pow_add]
      exact Nat.mul_lt_mul_of_pos_right hlt (Nat.two_pow_pos k)
    simp only [polyDivFrom]
    split
    · rename_i ht
      refine ih (lt_of_testBit_top (Nat.xor_lt_two_pow hr' hshift) ?_)
      simp [Nat.testBit_xor, ht, Nat.testBit_shiftLeft, testBit_of_bitLen hb]
    · rename_i ht
      exact ih (lt_of_testBit_top hr' (by simpa using ht))

theorem polyMod_lt {b n : Nat} (hb : bitLen b = n + 1) (a : Nat) : polyMod a b < 2 ^ n := by
  have hne : b ≠ 0 := by
    rintro rfl
    simp [bitLen] at hb
  rw [polyMod, polyDivMod, if_neg hne, hb]
  refine polyDivFrom_lt hb (Nat.lt_of_lt_of_le (lt_two_pow_bitLen a) (Nat.pow_le_pow_right (by decide) ?_))
  omega

theorem powerLoop_lt {mul : Nat → Nat → Nat} {one x n : Nat} (hmul : ∀ a b, mul a b < 2 ^ n) (hone : one < 2 ^ n) (k e : Nat) :
    powerLoop mul one x k e < 2 ^ n := by
  cases k with
  | zero => exact hone
  | succ k =>
    simp only [powerLoop]
    split <;> exact hmul _ _

/-! ### Elements of a configured context -/

/-- What makes a configured context, taken apart (10_state R45, R46). -/
theorem ExtField.bounds_of_ok {p : Params} {E : ExtField} (h : E.ok p = true) (hv : E.valid = true) :
    2 ≤ E.deg ∧ bitLen E.poly = E.deg + 1 := by
  simp only [ExtField.ok, if_pos hv, ExtField.configured, Bool.and_eq_true, decide_eq_true_eq, beq_iff_eq] at h
  obtain ⟨⟨⟨h2, -⟩, hpoly⟩, -⟩ := h
  exact ⟨h2, hpoly⟩

theorem ExtField.unitAt_lt (E : ExtField) (v : Nat) : E.unitAt v < 2 ^ E.deg := bitString_lt _ _

theorem ExtField.onbTerm_lt (E : ExtField) (i j : Nat) : E.onbTerm i j < 2 ^ E.deg := by
  have hpos := Nat.two_pow_pos E.deg
  have hunit (c : Prop) [Decidable c] (v : Nat) : (if c then 0 else E.unitAt v) < 2 ^ E.deg := by
    split
    · exact hpos
    · exact E.unitAt_lt v
  unfold ExtField.onbTerm
  dsimp only
  split
  · exact hpos
  · split
    · omega
    · exact E.unitAt_lt _
  · exact Nat.xor_lt_two_pow (hunit _ _) (hunit _ _)

theorem ExtField.onbMul_lt (E : ExtField) (a b : Nat) : E.onbMul a b < 2 ^ E.deg := by
  have hpos := Nat.two_pow_pos E.deg
  refine xorSum_lt fun i _ => ?_
  split
  · refine xorSum_lt fun j _ => ?_
    split
    · exact E.onbTerm_lt i j
    · exact hpos
  · exact hpos

theorem ExtField.mul_lt {E : ExtField} (h : bitLen E.poly = E.deg + 1) (a b : Nat) : E.mul a b < 2 ^ E.deg := by
  unfold ExtField.mul
  split
  · exact polyMod_lt h _
  · exact E.onbMul_lt a b
  · exact E.onbMul_lt a b

theorem ExtField.one_lt {E : ExtField} (h : 2 ≤ E.deg) : E.one < 2 ^ E.deg := by
  have hpos := Nat.two_pow_pos E.deg
  unfold ExtField.one
  split
  · exact Nat.one_lt_two_pow (by omega)
  · omega
  · omega

theorem ExtField.frobenius_lt {E : ExtField} (h : bitLen E.poly = E.deg + 1) {x : Nat} (hx : x < 2 ^ E.deg) (k : Nat) :
    E.frobenius k x < 2 ^ E.deg := by
  cases k with
  | zero => exact hx
  | succ k => exact ExtField.mul_lt h _ _

/-! ### The change-of-basis matrix and its inverse -/

theorem cobRow_lt {p : Params} {A B : ExtField} (h : B.ok p = true) (hv : B.valid = true) {r : Nat} (hr : r < 2 ^ B.deg)
    (j : Nat) : cobRow A B r j < 2 ^ B.deg := by
  obtain ⟨h2, hpoly⟩ := ExtField.bounds_of_ok h hv
  unfold cobRow
  split
  · exact powerLoop_lt (ExtField.mul_lt hpoly) (ExtField.one_lt h2) _ _
  · exact ExtField.frobenius_lt hpoly hr j
  · exact ExtField.frobenius_lt hpoly hr j

theorem cobMatrix_lt {p : Params} {A B : ExtField} (h : B.ok p = true) (hv : B.valid = true) {r : Nat} (hr : r < 2 ^ B.deg) :
    ∀ x ∈ cobMatrix A B r, x < 2 ^ B.deg := by
  intro x hx
  obtain ⟨j, -, rfl⟩ := List.mem_map.1 hx
  exact cobRow_lt h hv hr j

/-- The right half of every row of the elimination has `n` bits. -/
def RightRowsLt (n : Nat) (rows : List (Nat × Nat)) : Prop := ∀ x ∈ rows, x.2 < 2 ^ n

theorem RightRowsLt.getD {n : Nat} {rows : List (Nat × Nat)} (h : RightRowsLt n rows) (r : Nat) :
    (rows.getD r (0, 0)).2 < 2 ^ n := by
  rw [List.getD_eq_getElem?_getD]
  cases hr : rows[r]? with
  | none => exact Nat.two_pow_pos n
  | some x => exact h x (List.mem_of_getElem? hr)

theorem RightRowsLt.swapRows {n : Nat} {rows : List (Nat × Nat)} (h : RightRowsLt n rows) (m i j : Nat) :
    RightRowsLt n (swapRows (0, 0) m i j rows) := by
  intro x hx
  obtain ⟨r, -, rfl⟩ := List.mem_map.1 hx
  split
  · exact h.getD j
  · split
    · exact h.getD i
    · exact h.getD r

theorem RightRowsLt.eliminate2 {n m c : Nat} {rows rows' : List (Nat × Nat)} (h : RightRowsLt n rows)
    (he : eliminate2 m c rows = some rows') : RightRowsLt n rows' := by
  unfold Machine.eliminate2 at he
  split at he
  · cases he
  · obtain rfl := Option.some.inj he
    intro x hx
    obtain ⟨r, -, rfl⟩ := List.mem_map.1 hx
    dsimp only
    split
    · exact Nat.xor_lt_two_pow ((h.swapRows _ _ _).getD _) ((h.swapRows _ _ _).getD _)
    · exact (h.swapRows _ _ _).getD _

theorem RightRowsLt.eliminateCols2 {n m : Nat} {rows : List (Nat × Nat)} (h : RightRowsLt n rows) (c : Nat)
    {rows' : List (Nat × Nat)} (he : eliminateCols2 m rows c = some rows') : RightRowsLt n rows' := by
  induction c generalizing rows' with
  | zero =>
    obtain rfl := Option.some.inj he
    exact h
  | succ c ih =>
    obtain ⟨mid, hmid, hlast⟩ := Option.bind_eq_some_iff.1 he
    exact (ih hmid).eliminate2 hlast

theorem matInv_lt {n : Nat} {a inv : List Nat} (h : matInv n a = some inv) : ∀ x ∈ inv, x < 2 ^ n := by
  obtain ⟨rows, hrows, rfl⟩ := Option.map_eq_some_iff.1 h
  have hinit : RightRowsLt n ((List.range n).map fun i => (rowAt a i, 1 <<< i)) := by
    intro x hx
    obtain ⟨i, hi, rfl⟩ := List.mem_map.1 hx
    rw [Nat.one_shiftLeft]
    exact Nat.pow_lt_pow_right (by decide) (List.mem_range.1 hi)
  intro x hx
  obtain ⟨row, hrow, rfl⟩ := List.mem_map.1 hx
  exact hinit.eliminateCols2 n hrows row hrow

theorem cobReverse_lt (n : Nat) (m : List Nat) : ∀ x ∈ cobReverse n m, x < 2 ^ n := by
  unfold cobReverse
  cases h : matInv n m with
  | none => intro x hx; cases hx
  | some inv => exact matInv_lt h

/-! ### What the configuration commands store -/

/-- IRR_CONST only decides about constants. -/
theorem irreducible_of_bitLen {f n : Nat} (h : bitLen f = n + 1) (hn : n ≠ 0) (c d : Bool) :
    irreducible c f = irreducible d f := by
  have hne : bitLen f ≠ 1 := by omega
  simp only [irreducible, if_neg hne]

theorem Params.mMax_le {p : Params} (h : p.legal = true) : p.mMax ≤ 31 := by
  simp only [Params.legal, Bool.and_eq_true, Bool.or_eq_true, beq_iff_eq] at h
  omega

/-- SF.CFG's checks are the well-formedness of the context it stores (42 R201). -/
theorem SmallField.ok_of_checks {p : Params} {m poly : Word} (hm : 2 ≤ m.toNat ∧ m.toNat ≤ p.mMax)
    (hdeg : polyDeg poly.toNat = (m.toNat : Int)) (hirr : irreducible p.irrConst poly.toNat = true) (hp : p.legal = true) :
    SmallField.ok { m := m, poly := poly, valid := true } = true := by
  have hlen := bitLen_of_polyDeg hdeg
  have hmax := Params.mMax_le hp
  rw [irreducible_of_bitLen hlen (by omega) p.irrConst true] at hirr
  simp only [SmallField.ok, if_true, Bool.and_eq_true, decide_eq_true_eq, beq_iff_eq]
  exact ⟨⟨⟨hm.1, by omega⟩, hlen⟩, hirr⟩

/-- EF.CFG's checks for a polynomial basis are the well-formedness of the context it stores (43 R233). -/
theorem polyContext_ok {p : Params} {n id : Word} {P : Nat} (hn : 2 ≤ n.toNat ∧ n.toNat ≤ p.nMax.toNat)
    (hdeg : polyDeg P = (n.toNat : Int)) (hirr : irreducible p.irrConst P = true) : (polyContext n id P).ok p = true := by
  have hlen := bitLen_of_polyDeg hdeg
  rw [irreducible_of_bitLen hlen (by omega) p.irrConst true] at hirr
  have hrtype : ((polyContext n id P).rtype == .trinomial) = (weight P == 3)
      ∧ ((polyContext n id P).rtype == .pentanomial) = (weight P == 5) := by
    unfold polyContext
    by_cases h3 : weight P = 3
    · simp [h3]
    · by_cases h5 : weight P = 5
      · simp [h5]
      · simp [h3, h5]
  have hkind : (polyContext n id P).kind = .poly := rfl
  have hvalid : (polyContext n id P).valid = true := rfl
  simp only [ExtField.ok, if_pos hvalid, ExtField.configured, hkind, Bool.and_eq_true, decide_eq_true_eq, beq_iff_eq]
  exact ⟨⟨hn, hlen⟩, ⟨⟨hirr, rfl⟩, hrtype.1⟩, hrtype.2⟩

/-- `f_n` has degree `n` (43 R232). -/
theorem bitLen_onb2Poly (n : Nat) : bitLen (onb2Poly n).1 = n + 1 ∧ bitLen (onb2Poly n).2 = n + 2 := by
  induction n with
  | zero => decide
  | succ n ih =>
    obtain ⟨h1, h2⟩ := ih
    have hlt1 : (onb2Poly n).1 < 2 ^ (n + 1) := h1 ▸ lt_two_pow_bitLen _
    have hlt2 : (onb2Poly n).2 < 2 ^ (n + 2) := h2 ▸ lt_two_pow_bitLen _
    have hmono : (2 : Nat) ^ (n + 1) ≤ 2 ^ (n + 2) := Nat.pow_le_pow_right (by decide) (by omega)
    have hshift : (onb2Poly n).2 <<< 1 < 2 ^ (n + 3) := by
      rw [Nat.shiftLeft_eq, Nat.pow_succ 2 (n + 2)]
      omega
    refine ⟨h2, bitLen_eq_succ (k := n + 2) ?_ (Nat.xor_lt_two_pow hshift (by omega))⟩
    have htop := testBit_of_bitLen h2
    have hlow := Nat.testBit_lt_two_pow (Nat.lt_of_lt_of_le hlt1 hmono)
    simp [onb2Poly, Nat.testBit_xor, Nat.testBit_shiftLeft, htop, hlow]

theorem bitLen_onbPoly {kind : Kind} (hk : kind ≠ .poly) (n : Nat) : bitLen (onbPoly kind n) = n + 1 := by
  cases kind with
  | poly => exact absurd rfl hk
  | onb1 =>
    have hpos := Nat.two_pow_pos (n + 1)
    exact bitLen_eq_succ (by simp [onbPoly]) (by simp only [onbPoly]; omega)
  | onb2 => exact (bitLen_onb2Poly n).1

/-- EF.CFG's checks for a normal basis are the well-formedness of the context it stores (43 R233). -/
theorem onbContext_ok {p : Params} {kind : Kind} {n id : Word} (hk : kind ≠ .poly) (hn : 2 ≤ n.toNat ∧ n.toNat ≤ p.nMax.toNat)
    (hex : onbExists kind n.toNat = true) : (onbContext kind n id).ok p = true := by
  have hlen := bitLen_onbPoly hk n.toNat
  cases kind with
  | poly => exact absurd rfl hk
  | onb1 | onb2 => simp [ExtField.ok, ExtField.configured, ExtField.deg, onbContext, hn, hex, hlen]

end Sys2Proof.Machine

/-! ## What a command may write (00_scope R13; 10_state R41, R43, R45, R47)

Every command ends in one of three ways: it completes after single writes of the kinds listed here, it latches an error, or it
stays BUSY after one more candidate. The frame of a command and the invariant of the machine both follow from that list. -/

namespace Sys2Proof.Machine

/-- One write command `i` may make: to its scalar destination, inside the CAP words of a destination, to a field of a
destination other than BASE and CAP, to the context or the cache it names; or an answer of the environment is taken. -/
inductive SingleWrite (i : Instr) (s : State) : State → Prop
  | scalar (k : SReg) (v : Word) (hk : k ∈ i.scalarDests) : SingleWrite i s (s.setS k v)
  | bytes (d : DReg) (vs : List Byte) (hd : d ∈ i.descDests) (hin : s.inOm d) (hfit : vs.length ≤ 4 * s.cap d) :
      SingleWrite i s (s.writeBytes (s.base d) vs)
  | desc (d : DReg) (v : Desc) (hd : d ∈ i.descDests) (hbase : v.base = (s.D d).base) (hcap : v.cap = (s.D d).cap) :
      SingleWrite i s (s.setD d v)
  | smallField (m p : SReg) (F : SmallField) (hi : i = .sfCfg m p) (hF : s.params.legal = true → F.ok = true) :
      SingleWrite i s { s with sf := F }
  | context (p : DReg) (b : SReg) (c : Ctx) (E : ExtField) (hi : i = .efCfg p b c) (hE : E.ok s.params = true) :
      SingleWrite i s (s.setEfc c E)
  | cachePair (c : Ctx) (r : Nat) (hi : i = .efCob c ∨ ∃ d a, i = .efConv d a c) (hB : (s.efc (otherCtx c)).valid = true)
      (hn : (s.efc c).n = (s.efc (otherCtx c)).n) (hr : r < 2 ^ (s.efc (otherCtx c)).deg)
      (hfree : s.cobUsed + 2 ≤ s.params.cobEntries.toNat) :
      SingleWrite i s (s.appendCob (s.efc c) (s.efc (otherCtx c)) (cobMatrix (s.efc c) (s.efc (otherCtx c)) r))
  | flush (hi : i = .efFlush) : SingleWrite i s { s with cob := [] }
  | draw (l : List Nat) (n c : Nat) :
      SingleWrite i s { s with candidates := c, env := { s.env with answers := l, answered := n } }

/-- `u` is `s` after single writes of command `i`. -/
abbrev Commits (i : Instr) (s u : State) : Prop := Relation.ReflTransGen (SingleWrite i) s u

/-- `u` is `s` with answers of the environment taken and the candidates counted anew, and nothing else (00_scope R14). -/
def Drawn (s u : State) : Prop :=
  ∃ l n c, u = { s with candidates := c, env := { s.env with answers := l, answered := n } }

/-- The states command `i` may end its turn in: completed, with an error latched, or still BUSY below the limit of its search. -/
inductive Ends (i : Instr) (s : State) : State → Prop
  | completes {u : State} (j : Nat) (h : Commits i s u) : Ends i s (u.complete j)
  | fails {u : State} (e : ErrCode) (j : Nat) (h : Drawn s u) : Ends i s (u.latch e j)
  | goesOn {u : State} (h : Drawn s u) (hlimit : ¬ s.LimitReached) (hcand : u.candidates = s.candidates + 1) : Ends i s u

/-- What a command's checks and its commit answer, if anything, is `s` after single writes of the command. -/
def CommitsOk (i : Instr) (s : State) (r : Except ErrCode State) : Prop := ∀ u, r = .ok u → Commits i s u

variable {i : Instr} {s t u : State}

/-! ### Answers of the environment -/

theorem Drawn.refl (s : State) : Drawn s s := ⟨s.env.answers, s.env.answered, s.candidates, rfl⟩

theorem Drawn.commits (h : Drawn s u) : Commits i s u := by
  obtain ⟨l, n, c, rfl⟩ := h
  exact .single (.draw l n c)

theorem Drawn.takeAnswer (h : Drawn s u) : Drawn s u.takeAnswer.2 := by
  obtain ⟨l, n, c, rfl⟩ := h
  obtain ⟨l', hl⟩ := takeAnswer_state { s with candidates := c, env := { s.env with answers := l, answered := n } }
  exact ⟨l', n + 1, c, hl⟩

theorem Drawn.drawElem (h : Drawn s u) (E : ExtField) : Drawn s (u.drawElem E).2 := by
  obtain ⟨l, n, c, rfl⟩ := h
  obtain ⟨l', hl⟩ := drawWords_state { s with candidates := c, env := { s.env with answers := l, answered := n } }
    (wordsFor E.deg)
  exact ⟨l', n + wordsFor E.deg, c, hl⟩

theorem Drawn.withCandidates (h : Drawn s u) (c : Nat) : Drawn s { u with candidates := c } := by
  obtain ⟨l, n, _, rfl⟩ := h
  exact ⟨l, n, c, rfl⟩

theorem Drawn.checkDst (h : Drawn s u) (d : DReg) : u.checkDst d = s.checkDst d := by
  obtain ⟨l, n, c, rfl⟩ := h
  rfl

/-! ### From checks to a commit -/

/-- A check that fails leaves nothing to show; one that passes leaves the rest of the command. -/
theorem CommitsOk.after {x : Except ErrCode Unit} {k : Unit → Except ErrCode State}
    (h : x = .ok () → CommitsOk i s (k ())) : CommitsOk i s (x >>= k) := by
  cases x with
  | ok _ => exact h rfl
  | error e => exact fun u hu => by cases hu

theorem CommitsOk.ok (h : Commits i s u) : CommitsOk i s (.ok u) := by
  rintro _ ⟨⟩
  exact h

theorem CommitsOk.error (e : ErrCode) : CommitsOk i s (.error e) := fun _ h => by cases h

theorem CommitsOk.trans {r : Except ErrCode State} (h : Commits i s u) (hr : CommitsOk i u r) : CommitsOk i s r :=
  fun v hv => h.trans (hr v hv)

theorem of_check_ok {c : Prop} [Decidable c] {e : ErrCode} (h : check c e = .ok ()) : c := by
  by_contra hc
  rw [check_of_not e hc] at h
  cases h

/-! ### From a result to how the command ends -/

theorem finish_ends {r : Except ErrCode State} (hr : CommitsOk i s r) (h : finish s r = .next t) : Ends i s t := by
  obtain ⟨u, hu, rfl⟩ | ⟨e, -, rfl⟩ := finish_cases h
  · exact .completes 0 (hr u hu)
  · exact .fails e 0 (.refl s)

theorem afterChecks_ends {r : Except ErrCode Unit} {last : Result} (hl : r = .ok () → last = .next t → Ends i s t)
    (h : afterChecks s r last = .next t) : Ends i s t := by
  obtain ⟨hr, ht⟩ | ⟨e, -, rfl⟩ := afterChecks_cases h
  · exact hl hr ht
  · exact .fails e 0 (.refl s)

theorem searchTurn_ends {cand : State → Option Nat × State} {found : State → Nat → Except ErrCode State}
    (hd : Drawn s (cand s).2)
    (hf : ∀ u r, Drawn s u → (cand s).1 = some r → CommitsOk i u (found u r))
    (h : searchTurn s cand found = .next t) : Ends i s t := by
  have hd' : Drawn s { (cand s).2 with candidates := s.candidates + 1 } := hd.withCandidates _
  obtain ⟨-, -, rfl⟩ | ⟨hl, ⟨-, rfl⟩ | ⟨r, u, hr, hu, rfl⟩ | ⟨r, e, -, -, rfl⟩⟩ := searchTurn_cases h
  · exact .fails _ _ (.refl s)
  · exact .goesOn hd' hl rfl
  · exact .completes _ (hd'.commits.trans (hf _ r hd' hr u hu))
  · exact .fails e _ hd'

/-! ### Scalar results -/

theorem commits_setS {k : SReg} {v : Word} (hk : k ∈ i.scalarDests) : Commits i s (s.setS k v) := .single (.scalar k v hk)

theorem commits_setElem {k : SReg} {v : Nat} (hk : k ∈ i.scalarDests) : Commits i s (s.setElem k v) := commits_setS hk

/-! ### Stored results

A result is a run of bytes at a destination's BASE and then its LEN, or ROWS and COLS. -/

section Stores

variable {d : DReg} (hd : d ∈ i.descDests) (hin : s.inOm d)
include hd hin

theorem commits_store {vs : List Byte} {v : Desc} (hfit : vs.length ≤ 4 * s.cap d) (hbase : v.base = (s.D d).base)
    (hcap : v.cap = (s.D d).cap) : Commits i s ((s.writeBytes (s.base d) vs).setD d v) :=
  .tail (.single (.bytes d vs hd hin hfit)) (.desc d v hd hbase hcap)

theorem commits_putPoly {v len : Nat} (hfit : wordsFor len ≤ s.cap d) : Commits i s (s.putPoly d v len) := by
  refine commits_store hd hin ?_ rfl rfl
  rw [flatMap_bytesOfWord_length, wordsOfNat_length]
  exact Nat.mul_le_mul_left 4 hfit

theorem commits_putMat2 {m : List Nat} {r c : Nat} (hfit : r * wordsFor c ≤ s.cap d) : Commits i s (s.putMat2 d m r c) := by
  refine commits_store hd hin ?_ rfl rfl
  rw [flatMap_bytesOfWord_length, flatMap_blocks_length _ _ (wordsFor c) (by simp [wordsOfNat_length]), List.length_range]
  exact Nat.mul_le_mul_left 4 hfit

theorem commits_putMatM {m : List (List Nat)} {r c : Nat} (hfit : r * c ≤ s.cap d) : Commits i s (s.putMatM d m r c) := by
  refine commits_store hd hin ?_ rfl rfl
  rw [flatMap_bytesOfWord_length, flatMap_blocks_length _ _ c (by simp), List.length_range]
  exact Nat.mul_le_mul_left 4 hfit

theorem commits_putGoppa {a : List Nat} (hfit : goppaLen a ≤ s.cap d) : Commits i s (s.putGoppa d a) := by
  refine commits_store hd hin ?_ rfl rfl
  rw [flatMap_bytesOfWord_length, List.length_map, goppaStored_length]
  exact Nat.mul_le_mul_left 4 hfit

theorem commits_putImage {b : List Byte} (hfit : imageWords b.length ≤ s.cap d) : Commits i s (s.putImage d b) := by
  refine commits_store hd hin ?_ rfl rfl
  rw [List.length_append, List.length_replicate, image_bytes]
  exact Nat.mul_le_mul_left 4 hfit

end Stores

/-! Each store after its destination's two checks, BOUNDS before the result is computed and CAPACITY after. -/

section CheckedStores

variable {d : DReg} (hd : d ∈ i.descDests) (hdst : s.checkDst d = .ok ())
include hd hdst

theorem commitsOk_storePoly {v len : Nat} : CommitsOk i s (s.storePoly d v len) :=
  .after fun hcap => .ok (commits_putPoly hd (of_check_ok hdst) (of_check_ok hcap))

theorem commitsOk_storeElem {E : ExtField} {x : Nat} : CommitsOk i s (s.storeElem E d x) :=
  .after fun hcap => .ok (commits_putPoly hd (of_check_ok hdst) (of_check_ok hcap))

theorem commitsOk_storeMat2 {m : List Nat} {r c : Nat} : CommitsOk i s (s.storeMat2 d m r c) :=
  .after fun hcap => .ok (commits_putMat2 hd (of_check_ok hdst) (of_check_ok hcap))

theorem commitsOk_storeMatM {m : List (List Nat)} {r c : Nat} : CommitsOk i s (s.storeMatM d m r c) :=
  .after fun hcap => .ok (commits_putMatM hd (of_check_ok hdst) (of_check_ok hcap))

theorem commitsOk_storeImage {b : List Byte} : CommitsOk i s (s.storeImage d b) :=
  .after fun hcap => .ok (commits_putImage hd (of_check_ok hdst) (of_check_ok hcap))

/-- The length may be checked in a form known before the result is written out. -/
theorem commitsOk_putGoppa {a : List Nat} {n : Nat} (hn : goppaLen a = n) :
    CommitsOk i s (s.checkCap d n >>= fun _ => .ok (s.putGoppa d a)) :=
  .after fun hcap => .ok (commits_putGoppa hd (of_check_ok hdst) (hn ▸ of_check_ok hcap))

theorem commitsOk_storeGoppa {a : List Nat} : CommitsOk i s (s.storeGoppa d a) := commitsOk_putGoppa hd hdst rfl

end CheckedStores

end Sys2Proof.Machine

/-! ## What every command leaves unchanged (00_scope R13; 10_state R41) -/

namespace Sys2Proof.Machine

section Frames

variable {i : Instr} {s t u : State}

/-- `u` is `s` but for what command `i` names and for how a command ends (10_state R41, R43, R45, R47; 00_scope R13). -/
structure Frame (i : Instr) (s u : State) : Prop where
  scalars : ∀ k, k ∉ i.scalarDests → u.S k = s.S k := by intros; rfl
  descs : ∀ d, d ∉ i.descDests → u.D d = s.D d := by intros; rfl
  place : ∀ d, (u.D d).base = (s.D d).base ∧ (u.D d).cap = (s.D d).cap := by exact fun _ => ⟨rfl, rfl⟩
  smallField : (∀ m p, i ≠ .sfCfg m p) → u.sf = s.sf := by intros; rfl
  contexts : ∀ c, (∀ p b, i ≠ .efCfg p b c) → u.efc c = s.efc c := by intros; rfl
  cache : (∀ c, i ≠ .efCob c) → (∀ d a c, i ≠ .efConv d a c) → i ≠ .efFlush → u.cob = s.cob := by intros; rfl
  control : u.params = s.params ∧ u.cmd = s.cmd ∧ u.cmdseq = s.cmdseq ∧ u.ie = s.ie ∧ u.itercap = s.itercap := by
    exact ⟨rfl, rfl, rfl, rfl, rfl⟩
  flags : u.status.rej = s.status.rej ∧ u.status.busyacc = s.status.busyacc := by exact ⟨rfl, rfl⟩
  port : u.env.inputs = s.env.inputs ∧ u.env.response = s.env.response ∧ u.env.resets = s.env.resets := by
    exact ⟨rfl, rfl, rfl⟩

theorem Frame.refl (i : Instr) (s : State) : Frame i s s := {}

theorem Frame.trans (h : Frame i s t) (h' : Frame i t u) : Frame i s u where
  scalars k hk := (h'.scalars k hk).trans (h.scalars k hk)
  descs d hd := (h'.descs d hd).trans (h.descs d hd)
  place d := ⟨(h'.place d).1.trans (h.place d).1, (h'.place d).2.trans (h.place d).2⟩
  smallField hi := (h'.smallField hi).trans (h.smallField hi)
  contexts c hi := (h'.contexts c hi).trans (h.contexts c hi)
  cache hcob hconv hflush := (h'.cache hcob hconv hflush).trans (h.cache hcob hconv hflush)
  control := by
    obtain ⟨hp, hc, hq, hie, hcap⟩ := h.control
    obtain ⟨hp', hc', hq', hie', hcap'⟩ := h'.control
    exact ⟨hp'.trans hp, hc'.trans hc, hq'.trans hq, hie'.trans hie, hcap'.trans hcap⟩
  flags := ⟨h'.flags.1.trans h.flags.1, h'.flags.2.trans h.flags.2⟩
  port := by
    obtain ⟨hi, hr, hn⟩ := h.port
    obtain ⟨hi', hr', hn'⟩ := h'.port
    exact ⟨hi'.trans hi, hr'.trans hr, hn'.trans hn⟩

theorem frame_setS {k : SReg} {v : Word} (hk : k ∈ i.scalarDests) : Frame i s (s.setS k v) where
  scalars l hl := s.S_setS_ne k l v fun hlk => hl (hlk ▸ hk)

theorem frame_setD {d : DReg} {v : Desc} (hd : d ∈ i.descDests) (hbase : v.base = (s.D d).base) (hcap : v.cap = (s.D d).cap) :
    Frame i s (s.setD d v) where
  descs e he := s.D_setD_ne d e v fun hed => he (hed ▸ hd)
  place e := by
    by_cases hed : e = d
    · subst hed
      rw [State.D_setD_self]
      exact ⟨hbase, hcap⟩
    · rw [State.D_setD_ne _ _ _ _ hed]
      exact ⟨rfl, rfl⟩

theorem frame_setEfc {p : DReg} {b : SReg} {c : Ctx} {E : ExtField} (hi : i = .efCfg p b c) : Frame i s (s.setEfc c E) := by
  have hother (e : Ctx) (he : ∀ p b, i ≠ .efCfg p b e) : (s.setEfc c E).efc e = s.efc e := by
    cases c with
    | efc0 =>
      cases e with
      | efc0 => exact absurd hi (he p b)
      | efc1 => rfl
    | efc1 =>
      cases e with
      | efc0 => rfl
      | efc1 => exact absurd hi (he p b)
  cases c with
  | efc0 => exact { contexts := hother }
  | efc1 => exact { contexts := hother }

theorem SingleWrite.frame (h : SingleWrite i s u) : Frame i s u := by
  cases h with
  | scalar k v hk => exact frame_setS hk
  | bytes d vs hd hin hfit => exact {}
  | desc d v hd hbase hcap => exact frame_setD hd hbase hcap
  | smallField m p F hi hF => exact { smallField := fun hne => absurd hi (hne m p) }
  | context p b c E hi hE => exact frame_setEfc hi
  | cachePair c r hi hB hn hr hfree =>
    refine { cache := fun hcob hconv _ => ?_ }
    rcases hi with hi | ⟨d, a, hi⟩
    · exact absurd hi (hcob c)
    · exact absurd hi (hconv d a c)
  | flush hi => exact { cache := fun _ _ hflush => absurd hi hflush }
  | draw l n c => exact {}

theorem Commits.frame (h : Commits i s u) : Frame i s u := by
  induction h with
  | refl => exact .refl i s
  | tail _ hw ih => exact ih.trans hw.frame

/-- A destination stays where it was, with the room it had, so a second result may be stored after the first. -/
theorem Commits.inOm (h : Commits i s u) {d : DReg} (hin : s.inOm d) : u.inOm d := by
  obtain ⟨hbase, hcap⟩ := h.frame.place d
  obtain ⟨hparams, -⟩ := h.frame.control
  unfold State.inOm State.base State.cap
  rw [hbase, hcap, hparams]
  exact hin

theorem Commits.cap (h : Commits i s u) (d : DReg) : u.cap d = s.cap d := congrArg BitVec.toNat (h.frame.place d).2

/-- Completion and the error latch keep the frame: they write the phase, DONE, ERR, ERRCODE, ERRCMD and ITERCNT alone. -/
theorem Ends.frame (h : Ends i s t) : Frame i s t := by
  cases h with
  | completes j hc => exact hc.frame.trans {}
  | fails e j hd => exact (Commits.frame hd.commits).trans {}
  | goesOn hd _ _ => exact Commits.frame hd.commits

end Frames

end Sys2Proof.Machine

/-! ## How every command ends

Each command's checks are followed in order (`CommitsOk.after`) up to what it commits; a store needs the BOUNDS check of its
destination and its own CAPACITY check. -/

namespace Sys2Proof.Machine

section CommandEnds

variable {i : Instr} {s t : State}

/-! ### The destination's check inside a command's joint checks -/

/-- Checks that pass in sequence pass each. -/
theorem ok_of_bind {α : Type} {x : Except ErrCode Unit} {k : Unit → Except ErrCode α} {a : α} (h : (x >>= k) = .ok a) :
    x = .ok () ∧ k () = .ok a := by
  cases x with
  | ok _ => exact ⟨rfl, h⟩
  | error e => cases h

theorem checkDst_of_checkGp1 {dst a : DReg} (h : s.checkGp1 dst a = .ok ()) : s.checkDst dst = .ok () := by
  obtain ⟨-, h⟩ := ok_of_bind h
  obtain ⟨-, h⟩ := ok_of_bind h
  exact (ok_of_bind h).1

theorem checkDst_of_checkGp2 {dst a b : DReg} (h : s.checkGp2 dst a b = .ok ()) : s.checkDst dst = .ok () := by
  obtain ⟨-, h⟩ := ok_of_bind h
  obtain ⟨-, h⟩ := ok_of_bind h
  obtain ⟨-, h⟩ := ok_of_bind h
  exact (ok_of_bind h).1

theorem checkDst_of_checkGp3 {dst a b g : DReg} (h : s.checkGp3 dst a b g = .ok ()) : s.checkDst dst = .ok () := by
  obtain ⟨-, h⟩ := ok_of_bind h
  obtain ⟨-, h⟩ := ok_of_bind h
  obtain ⟨-, h⟩ := ok_of_bind h
  obtain ⟨-, h⟩ := ok_of_bind h
  exact (ok_of_bind h).1

theorem checkDst_of_checkGpMap {dst a m : DReg} (h : s.checkGpMap dst a m = .ok ()) : s.checkDst dst = .ok () := by
  obtain ⟨-, h⟩ := ok_of_bind h
  obtain ⟨-, h⟩ := ok_of_bind h
  obtain ⟨-, h⟩ := ok_of_bind h
  exact (ok_of_bind h).1

/-! ### Commands that share a shape -/

theorem bpProduct_ends {dst a b : DReg} (hd : dst ∈ i.descDests) (h : bpProduct dst a b s = .next t) : Ends i s t :=
  finish_ends (.after fun _ => .after fun _ => .after fun hdst => commitsOk_storePoly hd hdst) h

theorem bpBit_ends {f : Nat → Nat → Nat} {p : DReg} {k : SReg} (hd : p ∈ i.descDests) (h : bpBit f p k s = .next t) :
    Ends i s t :=
  finish_ends (.after fun _ => .after fun hdst => .after fun _ => commitsOk_storePoly hd hdst) h

theorem efUnary_ends {dst a : DReg} {c : Ctx} {pre : ExtField → Nat → Except ErrCode Unit} {f : ExtField → Nat → Nat}
    (hd : dst ∈ i.descDests) (h : efUnary dst a c s pre f = .next t) : Ends i s t :=
  finish_ends (.after fun _ => .after fun _ => .after fun hdst => .after fun _ => commitsOk_storeElem hd hdst) h

theorem efBinary_ends {dst a b : DReg} {c : Ctx} {f : ExtField → Nat → Nat → Nat} (hd : dst ∈ i.descDests)
    (h : efBinary dst a b c s f = .next t) : Ends i s t :=
  finish_ends (.after fun _ => .after fun _ => .after fun _ => .after fun hdst => commitsOk_storeElem hd hdst) h

/-! ### Two results -/

section Pairs

variable {quot rem : DReg} (hquot : quot ∈ i.descDests) (hrem : rem ∈ i.descDests) (hinQ : s.inOm quot) (hinR : s.inOm rem)
include hquot hrem hinQ hinR

theorem commits_putPoly_pair {q r m n : Nat} (hq : wordsFor m ≤ s.cap quot) (hr : wordsFor n ≤ s.cap rem) :
    Commits i s ((s.putPoly quot q m).putPoly rem r n) := by
  have hfirst : Commits i s (s.putPoly quot q m) := commits_putPoly hquot hinQ hq
  exact hfirst.trans (commits_putPoly hrem (hfirst.inOm hinR) (hfirst.cap rem ▸ hr))

theorem commits_putGoppa_pair {q r : List Nat} (hq : goppaLen q ≤ s.cap quot) (hr : goppaLen r ≤ s.cap rem) :
    Commits i s ((s.putGoppa quot q).putGoppa rem r) := by
  have hfirst : Commits i s (s.putGoppa quot q) := commits_putGoppa hquot hinQ hq
  exact hfirst.trans (commits_putGoppa hrem (hfirst.inOm hinR) (hfirst.cap rem ▸ hr))

end Pairs

theorem execBpDiv_ends {quot a b rem : DReg} (hquot : quot ∈ i.descDests) (hrem : rem ∈ i.descDests)
    (h : execBpDiv quot a b rem s = .next t) : Ends i s t :=
  finish_ends (.after fun _ => .after fun _ => .after fun hinQ => .after fun hinR => .after fun _ => .after fun hq =>
    .after fun hr => .after fun _ =>
      .ok (commits_putPoly_pair hquot hrem (of_check_ok hinQ) (of_check_ok hinR) (of_check_ok hq) (of_check_ok hr))) h

theorem execGpDiv_ends {quot a b rem : DReg} (hquot : quot ∈ i.descDests) (hrem : rem ∈ i.descDests)
    (h : execGpDiv quot a b rem s = .next t) : Ends i s t :=
  finish_ends (.after fun _ => .after fun _ => .after fun _ => .after fun hinQ => .after fun hinR => .after fun _ =>
    .after fun _ => .after fun _ => .after fun hq => .after fun hr => .after fun _ =>
      .ok (commits_putGoppa_pair hquot hrem (of_check_ok hinQ) (of_check_ok hinR) (of_check_ok hq) (of_check_ok hr))) h

/-! ### A length checked before the result is written out -/

/-- The length GP.MONO checks is that of its result (47 R364). -/
theorem goppaLen_gpShift (e : Nat) (a : List Nat) : goppaLen (gpShift e a) = if a = [] then 1 else e + a.length := by
  unfold gpShift goppaLen
  split
  · rfl
  · rename_i ha
    have hpos := List.length_pos_of_ne_nil ha
    rw [List.length_append, List.length_replicate]
    omega

/-- The length GP.ADDM checks is that of its result (47 R365). -/
theorem goppaLen_gpAddMono (a : List Nat) (e : Nat) :
    goppaLen (gpAddMono a e) = if a.length ≤ e then e + 1 else goppaLen (gpAddMono a e) := by
  split
  · rename_i he
    simp only [goppaLen, gpAddMono, if_pos he, List.length_append, List.length_replicate, List.length_singleton]
    omega
  · rfl

theorem execGpMono_ends {dst a : DReg} {k : SReg} (hd : dst ∈ i.descDests) (h : execGpMono dst a k s = .next t) :
    Ends i s t :=
  finish_ends (.after fun hchecks => commitsOk_putGoppa hd (checkDst_of_checkGp1 hchecks) (goppaLen_gpShift _ _)) h

theorem execGpAddm_ends {dst a : DReg} {k : SReg} (hd : dst ∈ i.descDests) (h : execGpAddm dst a k s = .next t) :
    Ends i s t :=
  finish_ends (.after fun hchecks => commitsOk_putGoppa hd (checkDst_of_checkGp1 hchecks) (goppaLen_gpAddMono _ _)) h

/-! ### Configuration -/

theorem execSfCfg_ends {m p : SReg} (h : execSfCfg m p s = .next t) : Ends (.sfCfg m p) s t :=
  finish_ends (.after fun hm => .after fun hdeg => .after fun hirr => .ok (.single (.smallField m p _ rfl
    (SmallField.ok_of_checks (of_check_ok hm) (of_check_ok hdeg) (of_check_ok hirr))))) h

theorem execEfCfg_ends {p : DReg} {b : SReg} {c : Ctx} (h : execEfCfg p b c s = .next t) : Ends (.efCfg p b c) s t := by
  refine finish_ends (.after fun _ => ?_) h
  dsimp only
  split
  case h_1 => exact .error _
  case h_2 =>
    exact .after fun _ => .after fun hn => .after fun hdeg => .after fun hirr => .ok (.single (.context p b c _ rfl
      (polyContext_ok (of_check_ok hn) (of_check_ok hdeg) (of_check_ok hirr))))
  case h_3 kind hk _ =>
    exact .after fun hn => .after fun hex => .ok (.single (.context p b c _ rfl
      (onbContext_ok hk (of_check_ok hn) (of_check_ok hex))))

/-! ### Commits by cases -/

theorem execSfExp_ends {dst a k : SReg} (hd : dst ∈ i.scalarDests) (h : execSfExp dst a k s = .next t) : Ends i s t := by
  refine finish_ends (.after fun _ => .after fun _ => ?_) h
  dsimp only
  split
  · exact .ok (commits_setElem hd)
  · split
    · exact .ok (commits_setElem hd)
    · exact .after fun _ => .ok (commits_setElem hd)

theorem execM2Inv_ends {dst a : DReg} (hd : dst ∈ i.descDests) (h : execM2Inv dst a s = .next t) : Ends i s t := by
  refine finish_ends (.after fun _ => .after fun hdst => .after fun _ => ?_) h
  split
  · exact .error _
  · exact commitsOk_storeMat2 hd hdst

theorem execM2mInv_ends {dst a : DReg} (hd : dst ∈ i.descDests) (h : execM2mInv dst a s = .next t) : Ends i s t := by
  refine finish_ends (.after fun _ => .after fun _ => .after fun hdst => .after fun _ => .after fun _ => ?_) h
  split
  · exact .error _
  · exact commitsOk_storeMatM hd hdst

theorem execGpMinv_ends {dst a g : DReg} (hd : dst ∈ i.descDests) (h : execGpMinv dst a g s = .next t) : Ends i s t := by
  refine finish_ends (.after fun hchecks => .after fun _ => ?_) h
  split
  · exact .error _
  · exact commitsOk_storeGoppa hd (checkDst_of_checkGp2 hchecks)

theorem execGpMdiv_ends {dst a b g : DReg} (hd : dst ∈ i.descDests) (h : execGpMdiv dst a b g s = .next t) : Ends i s t := by
  refine finish_ends (.after fun hchecks => .after fun _ => ?_) h
  split
  · exact .error _
  · exact commitsOk_storeGoppa hd (checkDst_of_checkGp3 hchecks)

/-! ### Searches -/

theorem drawn_solveCandidate (E : ExtField) (c : Nat) (s : State) : Drawn s (solveCandidate E c s).2 :=
  (Drawn.refl s).drawElem E

theorem drawn_rootCandidate (A B : ExtField) (s : State) : Drawn s (rootCandidate A B s).2 :=
  ((Drawn.refl s).drawElem B).takeAnswer

/-- A root a search succeeds with is an element of the target context. -/
theorem rootCandidate_lt {A B : ExtField} {r : Nat} (h : (rootCandidate A B s).1 = some r) : r < 2 ^ B.deg := by
  simp only [rootCandidate, Option.ite_none_right_eq_some, Option.some.injEq] at h
  obtain ⟨-, rfl⟩ := h
  exact Nat.mod_lt _ (Nat.two_pow_pos _)

theorem execEfSolveq_ends {dst a : DReg} {c : Ctx} (hd : dst ∈ i.descDests) (h : execEfSolveq dst a c s = .next t) :
    Ends i s t := by
  refine afterChecks_ends (fun hchecks hlast => ?_) h
  obtain ⟨-, hchecks⟩ := ok_of_bind hchecks
  obtain ⟨-, hchecks⟩ := ok_of_bind hchecks
  obtain ⟨hdst, -⟩ := ok_of_bind hchecks
  split at hlast
  · exact finish_ends (commitsOk_storeElem hd hdst) hlast
  · split at hlast
    · exact finish_ends (commitsOk_storeElem hd hdst) hlast
    · exact searchTurn_ends (drawn_solveCandidate _ _ s)
        (fun u r hu _ => commitsOk_storeElem hd ((hu.checkDst dst).trans hdst)) hlast

theorem execEfRoot_ends {dst : DReg} {c : Ctx} (hd : dst ∈ i.descDests) (h : execEfRoot dst c s = .next t) : Ends i s t := by
  refine afterChecks_ends (fun hchecks hlast => ?_) h
  obtain ⟨-, hchecks⟩ := ok_of_bind hchecks
  obtain ⟨-, hchecks⟩ := ok_of_bind hchecks
  obtain ⟨hdst, -⟩ := ok_of_bind hchecks
  exact searchTurn_ends (drawn_rootCandidate _ _ s)
    (fun u r hu _ => commitsOk_storeElem hd ((hu.checkDst dst).trans hdst)) hlast

/-- A root found from `s` on makes a pair of cache entries (44 R272). -/
theorem commits_appendCob {u : State} {c : Ctx} {r : Nat} (hu : Drawn s u) (hi : i = .efCob c ∨ ∃ d a, i = .efConv d a c)
    (hB : s.checkCtx (otherCtx c) = .ok ()) (hn : (s.efc c).n = (s.efc (otherCtx c)).n) (hfree : s.checkCache = .ok ())
    (hr : (rootCandidate (s.efc c) (s.efc (otherCtx c)) s).1 = some r) :
    Commits i u (u.appendCob (s.efc c) (s.efc (otherCtx c)) (cobMatrix (s.efc c) (s.efc (otherCtx c)) r)) := by
  obtain ⟨l, n, k, rfl⟩ := hu
  exact .single (.cachePair c r hi (of_check_ok hB) hn (rootCandidate_lt hr) (of_check_ok hfree))

theorem checkDst_appendCob (u : State) (A B : ExtField) (m : List Nat) (d : DReg) :
    (u.appendCob A B m).checkDst d = u.checkDst d := rfl

theorem execEfCob_ends {c : Ctx} (h : execEfCob c s = .next t) : Ends (.efCob c) s t := by
  refine afterChecks_ends (fun hchecks hlast => ?_) h
  obtain ⟨-, hchecks⟩ := ok_of_bind hchecks
  obtain ⟨hB, hchecks⟩ := ok_of_bind hchecks
  obtain ⟨hn, hchecks⟩ := ok_of_bind hchecks
  obtain ⟨-, hfree⟩ := ok_of_bind hchecks
  exact searchTurn_ends (drawn_rootCandidate _ _ s)
    (fun u r hu hr => .ok (commits_appendCob hu (.inl rfl) hB (of_check_ok hn) hfree hr)) hlast

theorem convByMatrix_ends {dst a : DReg} {c : Ctx} {x : Nat} (hB : s.checkCtx (otherCtx c) = .ok ())
    (hdst : s.checkDst dst = .ok ()) (h : convByMatrix (s.efc c) (s.efc (otherCtx c)) dst x s = .next t) :
    Ends (.efConv dst a c) s t := by
  have hd : dst ∈ (Instr.efConv dst a c).descDests := List.mem_singleton_self dst
  refine afterChecks_ends (fun hchecks hlast => ?_) h
  obtain ⟨hn, -⟩ := ok_of_bind hchecks
  split at hlast
  · exact finish_ends (.after fun _ => commitsOk_storeElem hd hdst) hlast
  · refine afterChecks_ends (fun hfree hsearch => ?_) hlast
    refine searchTurn_ends (drawn_rootCandidate _ _ s) (fun u r hu hr => ?_) hsearch
    exact .trans (commits_appendCob hu (.inr ⟨dst, a, rfl⟩) hB (of_check_ok hn) hfree hr)
      (commitsOk_storeElem hd ((checkDst_appendCob u _ _ _ dst).trans ((hu.checkDst dst).trans hdst)))

theorem execEfConv_ends {dst a : DReg} {c : Ctx} (h : execEfConv dst a c s = .next t) : Ends (.efConv dst a c) s t := by
  refine afterChecks_ends (fun hchecks hlast => ?_) h
  obtain ⟨-, hchecks⟩ := ok_of_bind hchecks
  obtain ⟨hB, hchecks⟩ := ok_of_bind hchecks
  obtain ⟨-, hdst⟩ := ok_of_bind hchecks
  split at hlast
  · exact finish_ends (.after fun _ => .after fun hcap => .ok (commits_putPoly (List.mem_singleton_self dst)
      (of_check_ok hdst) (of_check_ok hcap))) hlast
  · exact convByMatrix_ends hB hdst hlast

/-! ### All commands -/

/-- How a command ends, command by command: its checks in order, then what it commits. -/
theorem exec_ends (h : exec i s = .next t) : Ends i s t := by
  have hself {n : Nat} (d : Fin n) (l : List (Fin n)) : d ∈ d :: l := List.mem_cons_self
  have hsecond {n : Nat} (d e : Fin n) : e ∈ [d, e] := List.mem_cons_of_mem d (List.mem_singleton_self e)
  unfold exec at h
  cases i with
  | nop => exact finish_ends (.ok .refl) h
  | bpAdd dst a b =>
    exact finish_ends (.after fun _ => .after fun _ => .after fun hdst => commitsOk_storePoly (hself dst []) hdst) h
  | bpMulc dst a b => exact bpProduct_ends (hself dst []) h
  | bpMulk dst a b => exact bpProduct_ends (hself dst []) h
  | bpSqr dst a alg => exact finish_ends (.after fun _ => .after fun hdst => commitsOk_storePoly (hself dst []) hdst) h
  | bpDiv quot a b rem => exact execBpDiv_ends (hself quot [rem]) (hsecond quot rem) h
  | bpRem dst a b | bpGcd dst a b =>
    exact finish_ends (.after fun _ => .after fun _ => .after fun hdst => .after fun _ =>
      commitsOk_storePoly (hself dst []) hdst) h
  | bpRedt dst a base | bpRedp dst a base =>
    exact finish_ends (.after fun _ => .after fun _ => .after fun hdst => .after fun _ =>
      commitsOk_storePoly (hself dst []) hdst) h
  | bpDeg dst a | bpBget dst a index | bpIrr dst a => exact finish_ends (.after fun _ => .ok (commits_setS (hself dst []))) h
  | bpBset p index | bpBclr p index | bpBxor p index => exact bpBit_ends (hself p []) h
  | sfCfg m p => exact execSfCfg_ends h
  | sfAdd dst a b =>
    exact finish_ends (.after fun _ => .after fun _ => .after fun _ => .ok (commits_setS (hself dst []))) h
  | sfMul dst a b =>
    exact finish_ends (.after fun _ => .after fun _ => .after fun _ => .ok (commits_setElem (hself dst []))) h
  | sfSqr dst a | sfSqrt dst a => exact finish_ends (.after fun _ => .after fun _ => .ok (commits_setElem (hself dst []))) h
  | sfExp dst a k => exact execSfExp_ends (hself dst []) h
  | sfInv dst a =>
    exact finish_ends (.after fun _ => .after fun _ => .after fun _ => .ok (commits_setElem (hself dst []))) h
  | sfIsel dst a => exact finish_ends (.after fun _ => .ok (commits_setS (hself dst []))) h
  | efCfg p base c => exact execEfCfg_ends h
  | efAdd dst a b c | efMul dst a b c => exact efBinary_ends (hself dst []) h
  | efSqr dst a c | efInv dst a alg c | efSqrt dst a c | efHtrace dst a c => exact efUnary_ends (hself dst []) h
  | efTrace dst a c => exact finish_ends (.after fun _ => .after fun _ => .ok (commits_setS (hself dst []))) h
  | efSolveq dst a c => exact execEfSolveq_ends (hself dst []) h
  | efGetp dst c => exact finish_ends (.after fun _ => .after fun hdst => commitsOk_storePoly (hself dst []) hdst) h
  | efRoot dst c => exact execEfRoot_ends (hself dst []) h
  | efCob c => exact execEfCob_ends h
  | efConv dst a c => exact execEfConv_ends h
  | efFlush => exact finish_ends (.ok (.single (.flush rfl))) h
  | m2Mul dst a b =>
    exact finish_ends (.after fun _ => .after fun _ => .after fun hdst => .after fun _ =>
      commitsOk_storeMat2 (hself dst []) hdst) h
  | m2Vmul dst v m | m2Mulv dst m v =>
    exact finish_ends (.after fun _ => .after fun _ => .after fun hdst => .after fun _ =>
      commitsOk_storePoly (hself dst []) hdst) h
  | m2Inv dst a => exact execM2Inv_ends (hself dst []) h
  | m2Trn dst a => exact finish_ends (.after fun _ => .after fun hdst => commitsOk_storeMat2 (hself dst []) hdst) h
  | m2Isz dst a => exact finish_ends (.after fun _ => .ok (commits_setS (hself dst []))) h
  | m2Dec dst img =>
    exact finish_ends (.after fun _ => .after fun hdst => .after fun _ => .after fun _ => .after fun _ => .after fun _ =>
      commitsOk_storeMat2 (hself dst []) hdst) h
  | m2Enc img a => exact finish_ends (.after fun _ => .after fun hdst => commitsOk_storeImage (hself img []) hdst) h
  | m2mInv dst a => exact execM2mInv_ends (hself dst []) h
  | m2mRmulm | m2mRmulv | m2mLmulv | m2mLmulm => exact finish_ends (.error .notImplemented) h
  | m2mDec dst img =>
    exact finish_ends (.after fun _ => .after fun _ => .after fun hdst => .after fun _ => .after fun _ => .after fun _ =>
      .after fun _ => commitsOk_storeMatM (hself dst []) hdst) h
  | m2mEnc img a =>
    exact finish_ends (.after fun _ => .after fun _ => .after fun hdst => .after fun _ =>
      commitsOk_storeImage (hself img []) hdst) h
  | gpAdd dst a b | gpMul dst a b =>
    exact finish_ends (.after fun hchecks => commitsOk_storeGoppa (hself dst []) (checkDst_of_checkGp2 hchecks)) h
  | gpSmul dst a e =>
    exact finish_ends (.after fun hchecks => .after fun _ =>
      commitsOk_storeGoppa (hself dst []) (checkDst_of_checkGp1 hchecks)) h
  | gpDiv quot a b rem => exact execGpDiv_ends (hself quot [rem]) (hsecond quot rem) h
  | gpMod dst a b | gpGcd dst a b =>
    exact finish_ends (.after fun hchecks => .after fun _ =>
      commitsOk_storeGoppa (hself dst []) (checkDst_of_checkGp2 hchecks)) h
  | gpMmul dst a b g =>
    exact finish_ends (.after fun hchecks => .after fun _ =>
      commitsOk_storeGoppa (hself dst []) (checkDst_of_checkGp3 hchecks)) h
  | gpMinv dst a g => exact execGpMinv_ends (hself dst []) h
  | gpMdiv dst a b g => exact execGpMdiv_ends (hself dst []) h
  | gpSqm dst a map | gpSqrtm dst a map =>
    exact finish_ends (.after fun hchecks => commitsOk_storeGoppa (hself dst []) (checkDst_of_checkGpMap hchecks)) h
  | gpIrr dst a | gpDeg dst a => exact finish_ends (.after fun _ => .ok (commits_setS (hself dst []))) h
  | gpMono dst a k => exact execGpMono_ends (hself dst []) h
  | gpAddm dst a k => exact execGpAddm_ends (hself dst []) h

end CommandEnds

end Sys2Proof.Machine

/-! ## The frame of every command (10_state R41, R43, R45, R47) -/

namespace Sys2Proof.Machine

/-- Settles O11: the single writes of a command, closed under doing several, leave everything else alone. -/
theorem commandsKeepEveryOtherRegister : Obligations.CommandsKeepEveryOtherRegister := by
  unfold Obligations.CommandsKeepEveryOtherRegister
  intro i s t h
  obtain ⟨hscalars, hdescs, hplace, hsf, hcontexts, hcache, ⟨hparams, hcmd, hseq, hie, hcap⟩, ⟨hrej, hacc⟩, hport⟩ :=
    (exec_ends h).frame
  exact ⟨hscalars, hdescs, hplace, hsf, hcontexts, hcache, hparams, hcmd, hseq, hie, hcap, hrej, hacc, hport⟩

end Sys2Proof.Machine

/-! ## The invariant of the machine

A command's writes keep the part about the data, the end of a command the part about the phase and STATUS; every other step
touches few fields. -/

namespace Sys2Proof.Machine

section Invariant

variable {i : Instr} {s t u : State}

/-- The part of the invariant about what a command's writes may touch. -/
structure State.DataInv (s : State) : Prop where
  params : s.params.legal = true
  omForm : s.om.wf = true
  omRange : ∀ c ∈ s.om, c.1 < 4 * s.params.omWords.toNat
  smallField : s.sf.ok = true
  contexts : ∀ c, (s.efc c).ok s.params = true
  cache : cobPaired s.cob = true ∧ s.cobUsed ≤ s.params.cobEntries.toNat
  cacheRows : ∀ e ∈ s.cob, ∀ r ∈ e.rows, r < 2 ^ e.n

/-- The part of the invariant about the phase, STATUS and a running search. -/
structure State.ControlInv (s : State) : Prop where
  busy : s.phase = .busy → s.status.err = false ∧ s.status.done = false
  idle : s.phase = .idle → s.candidates = 0
  limit : s.itercap ≠ 0 → s.candidates ≤ s.itercap.toNat
  noError : s.status.err = false → s.status.errcode = 0
  errorCode : s.status.err = true → 1 ≤ s.status.errcode.toNat ∧ s.status.errcode.toNat ≤ 0x16

theorem inv_iff (s : State) : s.Inv ↔ s.DataInv ∧ s.ControlInv :=
  ⟨fun h => ⟨{ h with }, { h with }⟩, fun ⟨hd, hc⟩ => { hd, hc with }⟩

/-! ### Memory and cache -/

/-- A run of bytes inside OM keeps OM's form and range (20_memory R80). -/
theorem State.DataInv.writeBytes (h : s.DataInv) {w : Nat} {vs : List Byte}
    (hin : 4 * w + vs.length ≤ 4 * s.params.omWords.toNat) : (s.writeBytes w vs).DataInv :=
  { h with
    omForm := s.writeBytes_wf w vs h.omForm
    omRange := Memory.bound_setBytes vs s.om (4 * w) _ h.omRange hin }

theorem cobPaired_append {l m : List CobEntry} (hl : cobPaired l = true) (hm : cobPaired m = true) :
    cobPaired (l ++ m) = true := by
  induction l using cobPaired.induct with
  | case1 => exact hm
  | case2 e => cases hl
  | case3 a b l ih =>
    simp only [cobPaired, Bool.and_eq_true] at hl
    simp only [List.cons_append, cobPaired, Bool.and_eq_true]
    exact ⟨hl.1, ih hl.2⟩

theorem State.DataInv.appendCob (h : s.DataInv) {A B : ExtField} {m : List Nat} (hm : ∀ x ∈ m, x < 2 ^ A.deg)
    (hfree : s.cobUsed + 2 ≤ s.params.cobEntries.toNat) : (s.appendCob A B m).DataInv :=
  { h with
    cache := ⟨cobPaired_append h.cache.1 (by simp [cobPaired]), by
      simpa [State.cobUsed, State.appendCob] using hfree⟩
    cacheRows := by
      intro e he
      rcases List.mem_append.1 he with he | he
      · exact h.cacheRows e he
      · simp only [List.mem_cons, List.not_mem_nil, or_false] at he
        rcases he with rfl | rfl
        · exact hm
        · exact cobReverse_lt A.deg m }

theorem State.DataInv.setEfc (h : s.DataInv) {c : Ctx} {E : ExtField} (hE : E.ok s.params = true) : (s.setEfc c E).DataInv := by
  have hself : (s.efc0).ok s.params = true := h.contexts .efc0
  have hother : (s.efc1).ok s.params = true := h.contexts .efc1
  cases c with
  | efc0 => exact { h with contexts := fun | .efc0 => hE | .efc1 => hother }
  | efc1 => exact { h with contexts := fun | .efc0 => hself | .efc1 => hE }

/-! ### A command's writes -/

theorem SingleWrite.dataInv (hw : SingleWrite i s u) (h : s.DataInv) : u.DataInv := by
  cases hw with
  | scalar k v hk => exact { h with }
  | bytes d vs hd hin hfit =>
    refine h.writeBytes ?_
    have : s.base d + s.cap d ≤ s.params.omWords.toNat := hin
    omega
  | desc d v hd hbase hcap => exact { h with }
  | smallField m p F hi hF => exact { h with smallField := hF h.params }
  | context p b c E hi hE => exact h.setEfc hE
  | cachePair c r hi hB hn hr hfree =>
    refine h.appendCob (fun x hx => ?_) hfree
    have hdeg : (s.efc c).deg = (s.efc (otherCtx c)).deg := congrArg BitVec.toNat hn
    exact hdeg ▸ cobMatrix_lt (h.contexts (otherCtx c)) hB hr x hx
  | flush hi => exact { h with cache := ⟨rfl, Nat.zero_le _⟩, cacheRows := fun e he => by cases he }
  | draw l n c => exact { h with }

theorem Commits.dataInv (hc : Commits i s u) (h : s.DataInv) : u.DataInv := by
  induction hc with
  | refl => exact h
  | tail _ hw ih => exact hw.dataInv ih

/-- No write of a command touches STATUS. -/
theorem SingleWrite.status (hw : SingleWrite i s u) : u.status = s.status := by
  cases hw with
  | context p b c E hi hE => cases c <;> rfl
  | _ => rfl

theorem Commits.status (hc : Commits i s u) : u.status = s.status := by
  induction hc with
  | refl => rfl
  | tail _ hw ih => exact hw.status.trans ih

/-! ### The end of a command -/

theorem ErrCode.code_range (e : ErrCode) : 1 ≤ e.code.toNat ∧ e.code.toNat ≤ 0x16 := by
  cases e <;> decide

theorem State.ControlInv.complete (h : s.ControlInv) (hst : u.status = s.status) (j : Nat) : (u.complete j).ControlInv where
  busy hp := by cases hp
  idle _ := rfl
  limit _ := Nat.zero_le _
  noError he := by
    rw [State.complete_status, hst] at he ⊢
    exact h.noError he
  errorCode he := by
    rw [State.complete_status, hst] at he ⊢
    exact h.errorCode he

theorem controlInv_latch (s : State) (e : ErrCode) (j : Nat) : (s.latch e j).ControlInv where
  busy hp := by cases hp
  idle _ := rfl
  limit _ := Nat.zero_le _
  noError he := by cases he
  errorCode _ := e.code_range

/-- One more candidate below the limit is still within it. -/
theorem State.ControlInv.drawn (h : s.ControlInv) (hp : s.phase = .busy) (hd : Drawn s u) (hl : ¬ s.LimitReached)
    (hc : u.candidates = s.candidates + 1) : u.ControlInv := by
  obtain ⟨l, n, c, rfl⟩ := hd
  refine { h with
    idle := fun hi => ?_
    limit := fun hcap => ?_ }
  · cases hp.symm.trans hi
  · have hle := h.limit hcap
    have hne : s.candidates ≠ s.itercap.toNat := fun heq => hl ⟨hcap, heq⟩
    have hc' : c = s.candidates + 1 := hc
    subst hc'
    exact Nat.lt_of_le_of_ne hle hne

theorem Ends.inv (he : Ends i s t) (hp : s.phase = .busy) (h : s.Inv) : t.Inv := by
  obtain ⟨hdata, hcontrol⟩ := (inv_iff s).1 h
  refine (inv_iff t).2 ?_
  cases he with
  | completes j hc => exact ⟨{ hc.dataInv hdata with }, hcontrol.complete hc.status j⟩
  | @fails u e j hd => exact ⟨{ Commits.dataInv (i := i) hd.commits hdata with }, controlInv_latch u e j⟩
  | goesOn hd hl hcand => exact ⟨Commits.dataInv (i := i) hd.commits hdata, hcontrol.drawn hp hd hl hcand⟩

theorem engineTurn_inv (ht : engineTurn s = .next t) (h : s.Inv) : t.Inv := by
  obtain ⟨-, rfl⟩ | ⟨i, hp, -, hx⟩ | ⟨r, hp, -, rfl⟩ := engineTurn_cases ht
  · exact h
  · exact (exec_ends hx).inv hp h
  · exact (Ends.fails (i := .nop) .illegalCmd 0 (.refl s)).inv hp h

/-! ### The host port -/

/-- An OM location lies inside OM (20_memory R82). -/
theorem locate_om_lt {n off w : Nat} (h : locate n off = .om w) : w < n := by
  have hcontrol (o : Nat) : controlLoc o ≠ .om w := by
    unfold controlLoc
    split <;> nofun
  have hdesc (d : DReg) (o : Nat) : descLoc d o ≠ .om w := by
    unfold descLoc
    split <;> nofun
  have hefc (c : Ctx) (o : Nat) : efcLoc c o ≠ .om w := by
    unfold efcLoc
    split <;> nofun
  unfold locate at h
  split_ifs at h
  · exact absurd h (hcontrol off)
  · exact absurd h (hdesc _ _)
  · exact absurd h (hefc .efc0 _)
  · exact absurd h (hefc .efc1 _)
  · have hw : (off - 0x100000) / 4 = w := Loc.om.inj h
    omega

theorem State.Inv.respond (h : s.Inv) (r : Response) : (s.respond r).Inv := { h with }

theorem State.Inv.setBusyacc (h : s.Inv) : s.setBusyacc.Inv := { h with }

theorem State.Inv.withInputs (h : s.Inv) (l : List Input) : (s.withInputs l).Inv := { h with }

theorem State.Inv.issue (h : s.Inv) (w : Word) : (s.issue w).Inv := by
  obtain ⟨-, herr, heq⟩ | ⟨-, heq⟩ := issue_cases s w
  · rw [heq]
    exact { h with
      busy := fun _ => ⟨herr, rfl⟩
      idle := fun hp => by cases hp
      limit := fun _ => Nat.zero_le _ }
  · rw [heq]
    exact { h with }

/-- Writing 1 to STATUS.ERR clears the error with its code; writing 0 keeps both (10_state R33). -/
theorem Status.writeOneToClear_error (c : Status) (v : Word) :
    (c.writeOneToClear v).err = false ∧ (c.writeOneToClear v).errcode = 0
      ∨ (c.writeOneToClear v).err = c.err ∧ (c.writeOneToClear v).errcode = c.errcode := by
  unfold Status.writeOneToClear
  cases v.getLsbD 2 with
  | true => exact .inl ⟨Bool.and_false c.err, rfl⟩
  | false => exact .inr ⟨Bool.and_true c.err, rfl⟩

theorem Status.writeOneToClear_done {c : Status} (h : c.done = false) (v : Word) : (c.writeOneToClear v).done = false := by
  simp [Status.writeOneToClear, h]

theorem State.Inv.clearStatus (h : s.Inv) (v : Word) : (s.clearStatus v).Inv := by
  obtain ⟨herr, hcode⟩ | ⟨herr, hcode⟩ := s.status.writeOneToClear_error v
  · exact { h with
      busy := fun hp => ⟨herr, Status.writeOneToClear_done (h.busy hp).2 v⟩
      noError := fun _ => hcode
      errorCode := fun he => by cases herr.symm.trans he }
  · exact { h with
      busy := fun hp => ⟨herr.trans (h.busy hp).1, Status.writeOneToClear_done (h.busy hp).2 v⟩
      noError := fun he => hcode.trans (h.noError (herr.symm.trans he))
      errorCode := fun he => by
        rw [State.clearStatus_status, hcode]
        exact h.errorCode (herr.symm.trans he) }

theorem State.Inv.writeLoc (h : s.Inv) {l : Loc} {v : Word} (hom : ∀ w, l = .om w → w < s.params.omWords.toNat)
    (hblock : ¬ (s.phase = .busy ∧ l.writeBlocked = true)) : (s.writeLoc l v).Inv := by
  cases l with
  | cmd => exact h.issue v
  | status => exact h.clearStatus v
  | itercap =>
    have hidle : s.phase = .idle := by
      cases hp : s.phase with
      | idle => rfl
      | busy => exact absurd ⟨hp, rfl⟩ hblock
    have hzero : s.candidates ≤ v.toNat := by
      rw [h.idle hidle]
      exact Nat.zero_le _
    exact { h with limit := fun _ => hzero }
  | om w =>
    obtain ⟨hdata, hcontrol⟩ := (inv_iff s).1 h
    have hw := hom w rfl
    exact (inv_iff _).2 ⟨hdata.writeBytes (by rw [flatMap_bytesOfWord_length, List.length_singleton]; omega), { hcontrol with }⟩
  | _ => exact { h with }

theorem State.Inv.hostRead (h : s.Inv) (off n : Nat) : (s.hostRead off n).Inv := by
  simp only [State.hostRead]
  split
  · exact h.respond _
  · split
    · exact h.setBusyacc.respond _
    · exact h.respond _

theorem State.Inv.hostWrite (h : s.Inv) (off n : Nat) (v : Word) : (s.hostWrite off n v).Inv := by
  simp only [State.hostWrite]
  split
  · exact h.respond _
  · split
    · exact h.setBusyacc.respond _
    · rename_i hblock
      exact (h.writeLoc (fun w hw => locate_om_lt hw) hblock).respond _

theorem hostAccess_inv {a : Access} (ht : hostAccess a s = .next t) (h : s.Inv) : t.Inv := by
  obtain ⟨off, n, -, rfl⟩ | ⟨off, n, v, -, rfl⟩ := hostAccess_cases ht
  · exact h.hostRead off n
  · exact h.hostWrite off n v

/-! ### Reset -/

theorem State.Inv.resetEvent (h : s.Inv) : s.resetEvent.Inv :=
  { params := h.params
    omForm := rfl
    omRange := fun c hc => by cases hc
    busy := fun hp => by cases hp
    idle := fun _ => rfl
    limit := fun _ => Nat.zero_le _
    noError := fun _ => rfl
    errorCode := fun he => by cases he
    smallField := rfl
    contexts := fun | .efc0 => rfl | .efc1 => rfl
    cache := ⟨rfl, Nat.zero_le _⟩
    cacheRows := fun e he => by cases he }

end Invariant

/-- Settles O12, by the kinds of the next input: an engine turn through how its command ends, a host access through the location
it names, and reset. -/
theorem stepKeepsTheMachineInvariant : Obligations.StepKeepsTheMachineInvariant := by
  unfold Obligations.StepKeepsTheMachineInvariant
  intro s t h ht
  obtain ⟨-, ht⟩ | ⟨rest, -, ht⟩ | ⟨a, rest, -, ht⟩ | ⟨rest, -, rfl⟩ := step_cases ht
  · exact engineTurn_inv ht h
  · exact engineTurn_inv ht (h.withInputs rest)
  · exact hostAccess_inv ht (h.withInputs rest)
  · exact (h.withInputs rest).resetEvent

end Sys2Proof.Machine

/-! ## STATUS, its write-one-to-clear bits and IRQ (10_state R33, R35, R48, R50; 20_memory R96, R98) -/

namespace Sys2Proof.Machine

section StatusWord

/-! ### The words bit by bit -/

theorem getLsbD_bitWord (b : Bool) {j : Nat} (hj : j < 32) (k : Nat) : (bitWord b j).getLsbD k = (b && decide (k = j)) := by
  cases b with
  | false => simp [bitWord]
  | true =>
    simp only [bitWord, if_true, BitVec.getLsbD_shiftLeft, BitVec.getLsbD_one, Bool.true_and]
    rw [Bool.eq_iff_iff]
    simp only [Bool.and_eq_true, Bool.not_eq_true', decide_eq_true_eq, decide_eq_false_iff_not]
    omega

theorem getLsbD_errcode (c : BitVec 8) (k : Nat) : (c.setWidth 32 <<< 8).getLsbD k = (decide (8 ≤ k) && c.getLsbD (k - 8)) := by
  by_cases hlow : k < 8
  · simp [hlow]
  · by_cases hhigh : k - 8 < 8
    · have hk : k < 32 := by omega
      simp [hlow, hk, show 8 ≤ k by omega]
    · simp [BitVec.getLsbD_of_ge c (k - 8) (by omega)]

/-- STATUS bit by bit (10_state R33). -/
theorem getLsbD_statusWord (s : State) (k : Nat) : s.statusWord.getLsbD k
    = ((s.isBusy && decide (k = 0)) || (s.status.done && decide (k = 1)) || (s.status.err && decide (k = 2))
      || (s.status.rej && decide (k = 3)) || (s.status.busyacc && decide (k = 4))
      || (decide (8 ≤ k) && s.status.errcode.getLsbD (k - 8))) := by
  simp only [State.statusWord, BitVec.getLsbD_or, getLsbD_errcode, getLsbD_bitWord _ (show (0 : Nat) < 32 by decide),
    getLsbD_bitWord _ (show (1 : Nat) < 32 by decide), getLsbD_bitWord _ (show (2 : Nat) < 32 by decide),
    getLsbD_bitWord _ (show (3 : Nat) < 32 by decide), getLsbD_bitWord _ (show (4 : Nat) < 32 by decide)]

/-- DONE, ERR, REJ and BUSYACC in STATUS. -/
theorem statusWord_flags (s : State) : s.statusWord.getLsbD 1 = s.status.done ∧ s.statusWord.getLsbD 2 = s.status.err
    ∧ s.statusWord.getLsbD 3 = s.status.rej ∧ s.statusWord.getLsbD 4 = s.status.busyacc := by
  simp only [getLsbD_statusWord]
  simp

/-- ERRCODE in STATUS. -/
theorem statusWord_errcode (s : State) {k : Nat} (hk : 8 ≤ k) : s.statusWord.getLsbD k = s.status.errcode.getLsbD (k - 8) := by
  simp [getLsbD_statusWord, hk, show k ≠ 0 by omega, show k ≠ 1 by omega, show k ≠ 2 by omega, show k ≠ 3 by omega,
    show k ≠ 4 by omega]

/-- The bits of STATUS that read 0. -/
theorem statusWord_reserved (s : State) {k : Nat} (hk : (5 ≤ k ∧ k ≤ 7) ∨ 16 ≤ k) : s.statusWord.getLsbD k = false := by
  rcases hk with ⟨h5, h7⟩ | h16
  · simp [getLsbD_statusWord, show k ≠ 0 by omega, show k ≠ 1 by omega, show k ≠ 2 by omega, show k ≠ 3 by omega,
      show k ≠ 4 by omega, show ¬ 8 ≤ k by omega]
  · rw [statusWord_errcode s (by omega)]
    exact BitVec.getLsbD_of_ge _ _ (by omega)

theorem ieWord_flags (e : IntEnable) : e.word.getLsbD 0 = e.doneIE ∧ e.word.getLsbD 1 = e.errIE := by
  simp only [IntEnable.word, BitVec.getLsbD_or, getLsbD_bitWord _ (show (0 : Nat) < 32 by decide),
    getLsbD_bitWord _ (show (1 : Nat) < 32 by decide)]
  simp

/-! ### A write to STATUS -/

/-- STATUS is never blocked: a write clears bits whatever the phase (20_memory R96). -/
theorem hostWrite_status (s : State) (v : Word) : s.hostWrite 8 4 v = (s.clearStatus v).respond .written := by
  simp [State.hostWrite, Loc.writeBlocked, Loc.readBlocked, State.writeLoc]

theorem hostAccess_writeStatus (s : State) (v : Word) :
    hostAccess (.write (s.params.blockBase + 8) 4 v) s = .next ((s.clearStatus v).respond .written) := by
  have hin : ¬ s.params.blockBase + 8 < s.params.blockBase := by omega
  simp only [hostAccess, if_neg hin, Nat.add_sub_cancel_left, hostWrite_status]

/-- The W1C bits after a write (10_state R33). -/
theorem clearStatus_bit (s : State) (v : Word) {k : Nat} (h1 : 1 ≤ k) (h4 : k ≤ 4) :
    (s.clearStatus v).statusWord.getLsbD k = (s.statusWord.getLsbD k && !v.getLsbD k) := by
  obtain ⟨hdone, herr, hrej, hacc⟩ := statusWord_flags s
  obtain ⟨hdone', herr', hrej', hacc'⟩ := statusWord_flags (s.clearStatus v)
  interval_cases k
  · rw [hdone, hdone']; rfl
  · rw [herr, herr']; rfl
  · rw [hrej, hrej']; rfl
  · rw [hacc, hacc']; rfl

/-- Clearing ERR zeroes ERRCODE (10_state R33). -/
theorem clearStatus_errcode (s : State) (v : Word) {k : Nat} (hk : 8 ≤ k) :
    (s.clearStatus v).statusWord.getLsbD k = (!v.getLsbD 2 && s.statusWord.getLsbD k) := by
  rw [statusWord_errcode _ hk, statusWord_errcode _ hk, State.clearStatus_status]
  unfold Status.writeOneToClear
  cases v.getLsbD 2 with
  | true => exact BitVec.getLsbD_zero
  | false => rfl

/-- IRQ is a function of the two words software reads (10_state R50). -/
theorem irq_eq (s : State) : s.irq = ((s.statusWord.getLsbD 1 && s.ie.word.getLsbD 0)
    || (s.statusWord.getLsbD 2 && s.ie.word.getLsbD 1)) := by
  obtain ⟨hdone, herr, -, -⟩ := statusWord_flags s
  obtain ⟨hd, he⟩ := ieWord_flags s.ie
  rw [hdone, herr, hd, he]
  rfl

theorem isBusy_eq (s : State) : s.isBusy = decide (s.phase = .busy) := by
  cases h : s.phase <;> simp [State.isBusy, h]

end StatusWord

/-- Settles O16: STATUS is never blocked, and a write to it is `clearStatus`, read bit by bit. -/
theorem statusWriteClearsTheBitsWrittenWithOne : Obligations.StatusWriteClearsTheBitsWrittenWithOne := by
  unfold Obligations.StatusWriteClearsTheBitsWrittenWithOne
  intro s v
  refine ⟨_, hostAccess_writeStatus s v, fun k h1 h4 => clearStatus_bit s v h1 h4, ?_, ?_,
    fun k h8 _ => clearStatus_errcode s v h8, fun k hk => statusWord_reserved _ hk, ?_, rfl, rfl, rfl, rfl, rfl, rfl, rfl,
    irq_eq _⟩
  · exact (statusWord_bit_busy _).trans (statusWord_bit_busy s).symm
  · exact (statusWord_bit_busy _).trans (isBusy_eq _)
  · exact ⟨rfl, rfl, rfl, rfl, rfl, rfl, rfl, rfl, rfl⟩

end Sys2Proof.Machine

/-! ## What a command may store in operand memory (20_memory R83, R94) -/

namespace Sys2Proof.Machine

section StoredBytes

variable {i : Instr} {s t u : State} {a : Nat}

/-- Byte `a` of OM lies outside the CAP words of every destination of command `i`. -/
def OutsideDests (i : Instr) (s : State) (a : Nat) : Prop := ∀ d ∈ i.descDests, ¬ inWords a (s.base d) (s.cap d)

/-- A command leaves BASE and CAP alone, so its destinations stay where they were while it commits (10_state R41). -/
theorem OutsideDests.commits (ha : OutsideDests i s a) (h : Commits i s u) : OutsideDests i u a := by
  intro d hd
  have hbase : u.base d = s.base d := congrArg BitVec.toNat (h.frame.place d).1
  rw [hbase, h.cap d]
  exact ha d hd

/-- Of the single writes only a run of bytes at a destination stores into OM, and it fits the CAP words there. -/
theorem SingleWrite.readByte (h : SingleWrite i s u) (ha : OutsideDests i s a) : u.readByte a = s.readByte a := by
  cases h with
  | bytes d vs hd hin hfit =>
    have hout := ha d hd
    unfold inWords at hout
    rw [State.readByte_writeBytes, dif_neg (by omega)]
  | context p b c E hi hE => cases c <;> rfl
  | _ => rfl

theorem Commits.readByte (h : Commits i s u) (ha : OutsideDests i s a) : u.readByte a = s.readByte a := by
  induction h with
  | refl => rfl
  | tail hc hw ih => exact (hw.readByte (ha.commits hc)).trans ih

/-- Completion and the error latch store nothing, and neither does a search that goes on. -/
theorem Ends.readByte (h : Ends i s t) (ha : OutsideDests i s a) : t.readByte a = s.readByte a := by
  cases h with
  | completes j hc =>
    rw [State.readByte_complete]
    exact hc.readByte ha
  | fails e j hd =>
    rw [State.readByte_latch]
    exact Commits.readByte hd.commits ha
  | goesOn hd _ _ => exact Commits.readByte hd.commits ha

end StoredBytes

/-- Settles O10: every command ends after single writes, and each of them keeps the bytes outside the destinations. -/
theorem commandsStoreOnlyInTheirDestinations : Obligations.CommandsStoreOnlyInTheirDestinations := by
  unfold Obligations.CommandsStoreOnlyInTheirDestinations
  intro i s t a h ha
  exact (exec_ends h).readByte ha

end Sys2Proof.Machine

/-! ## The host port by offset (10_state section 6; 20_memory R82, R95, R96, R98)

Each group of offsets is located once; an access is then a bus error, blocked, or a read or write of that location. -/

namespace Sys2Proof.Machine

section HostPort

variable {s : State} {off : Nat} {l : Loc} {v : Word}

/-! ### The register map -/

theorem locate_scalar (n : Nat) (k : SReg) : locate n (0x040 + 4 * k.val) = .scalar k := by
  have hk := k.isLt
  rw [locate, if_neg (by omega), if_pos (by omega)]
  exact congrArg Loc.scalar (Fin.ext (by simp only [Fin.ofNat]; omega))

theorem locate_desc (n : Nat) (d : DReg) {o : Nat} (ho : o < 0x20) : locate n (0x100 + 0x20 * d.val + o) = descLoc d o := by
  have hd := d.isLt
  have hreg : Fin.ofNat 8 ((0x100 + 0x20 * d.val + o - 0x100) / 0x20) = d := Fin.ext (by simp only [Fin.ofNat]; omega)
  have hfield : (0x100 + 0x20 * d.val + o - 0x100) % 0x20 = o := by omega
  rw [locate, if_neg (by omega), if_neg (by omega), if_neg (by omega), if_pos (by omega), hreg, hfield]

theorem locate_efc0 (n : Nat) {o : Nat} (ho : o < 0x20) : locate n (0x200 + o) = efcLoc .efc0 o := by
  rw [locate, if_neg (by omega), if_neg (by omega), if_neg (by omega), if_neg (by omega), if_pos (by omega),
    Nat.add_sub_cancel_left]

theorem locate_efc1 (n : Nat) {o : Nat} (ho : o < 0x20) : locate n (0x220 + o) = efcLoc .efc1 o := by
  rw [locate, if_neg (by omega), if_neg (by omega), if_neg (by omega), if_neg (by omega), if_neg (by omega), if_pos (by omega),
    Nat.add_sub_cancel_left]

theorem locate_om {n w : Nat} (hw : w < n) : locate n (0x100000 + 4 * w) = .om w := by
  rw [locate, if_neg (by omega), if_neg (by omega), if_neg (by omega), if_neg (by omega), if_neg (by omega), if_neg (by omega),
    if_neg (by omega), if_pos (by omega)]
  exact congrArg Loc.om (by omega)

/-- The words of a descriptor above its fields (10_state R42). -/
theorem descLoc_reserved (d : DReg) {f : Nat} (h5 : 5 ≤ f) (h8 : f < 8) : descLoc d (4 * f) = .reserved := by
  interval_cases f <;> rfl

/-- The reserved offsets outside the descriptors (10_state R52), and all those above the OM window (20_memory R82). -/
theorem locate_reserved {n : Nat} (h : off = 0x03C ∨ (0x060 ≤ off ∧ off < 0x100) ∨ (0x240 ≤ off ∧ off < 0x100000)
    ∨ 0x100000 + 4 * n ≤ off) : locate n off = .reserved := by
  rcases h with rfl | ⟨hlow, hhigh⟩ | ⟨hlow, hhigh⟩ | hlow
  · rfl
  · rw [locate, if_neg (by omega), if_neg (by omega), if_pos hhigh]
  · rw [locate, if_neg (by omega), if_neg (by omega), if_neg (by omega), if_neg (by omega), if_neg (by omega), if_neg (by omega),
      if_pos hhigh]
  · rw [locate, if_neg (by omega), if_neg (by omega), if_neg (by omega), if_neg (by omega), if_neg (by omega), if_neg (by omega),
      if_neg (by omega), if_neg (by omega)]

/-! ### Offsets that hold an operand, offsets that only read -/

/-- Offset `off` is that of S0 to S7, of a descriptor field or of one of the `n` OM words (10_state section 6, 20_memory R82). -/
def OperandOffset (n off : Nat) : Prop :=
  (∃ k : Fin 8, off = 0x040 + 4 * k.val) ∨ (∃ (d : Fin 8) (f : Fin 5), off = 0x100 + 0x20 * d.val + 4 * f.val)
    ∨ ∃ w, w < n ∧ off = 0x100000 + 4 * w

/-- The fields of a descriptor are blocked while BUSY (20_memory R96). -/
theorem descLoc_field (d : DReg) (f : Fin 5) :
    (descLoc d (4 * f.val)).readBlocked = true ∧ ∀ w, descLoc d (4 * f.val) ≠ .om w := by
  fin_cases f <;> exact ⟨rfl, nofun⟩

/-- The operands are what a running command blocks (20_memory R96). -/
theorem OperandOffset.locate {n : Nat} (h : OperandOffset n off) : off % 4 = 0 ∧ (locate n off).readBlocked = true
    ∧ ∀ w, locate n off = .om w → off = 0x100000 + 4 * w := by
  obtain ⟨k, rfl⟩ | ⟨d, f, rfl⟩ | ⟨w, hw, rfl⟩ := h
  · rw [locate_scalar]
    exact ⟨by omega, rfl, nofun⟩
  · obtain ⟨hblocked, hom⟩ := descLoc_field d f
    rw [locate_desc n d (by omega)]
    exact ⟨by omega, hblocked, fun w hw => absurd hw (hom w)⟩
  · rw [locate_om hw]
    exact ⟨by omega, rfl, fun _ hw' => by rw [Loc.om.inj hw']⟩

/-- The operands and ITERCAP are what a running command blocks for writes (20_memory R96). -/
theorem locate_writeBlocked {n : Nat} (h : OperandOffset n off ∨ off = 0x018) : off % 4 = 0
    ∧ (locate n off).writeBlocked = true ∧ ∀ w, locate n off = .om w → off = 0x100000 + 4 * w := by
  rcases h with h | rfl
  · obtain ⟨ho, hb, hom⟩ := h.locate
    exact ⟨ho, by rw [Loc.writeBlocked, hb, Bool.true_or], hom⟩
  · exact ⟨rfl, rfl, nofun⟩

/-- Offset `off` is that of an RO register (10_state R31, R34, R36, R37, R39, R43, R44, R45). -/
def ReadOnlyOffset (off : Nat) : Prop :=
  off ∈ [0x000, 0x010, 0x014, 0x01C] ∨ (∃ k : Fin 7, off = 0x020 + 4 * k.val) ∨ (∃ k : Fin 16, off = 0x200 + 4 * k.val)

/-- A location that a host write leaves as it was, in any state: RO or reserved (20_memory R98). -/
def Loc.IgnoresWrites (l : Loc) : Prop := l.writeBlocked = false ∧ ∀ (s : State) (v : Word), s.writeLoc l v = s

/-- Of the control registers only CMD, STATUS, IE and ITERCAP have a host write with an effect. -/
theorem controlLoc_ignoresWrites {o : Nat} (ho : o ∈ [0x000, 0x010, 0x014, 0x01C] ∨ 0x020 ≤ o) :
    (controlLoc o).IgnoresWrites := by
  unfold controlLoc
  split
  case h_2 | h_3 | h_4 | h_7 => simp at ho
  all_goals exact ⟨rfl, fun _ _ => rfl⟩

theorem efcLoc_ignoresWrites (c : Ctx) (o : Nat) : (efcLoc c o).IgnoresWrites := by
  unfold efcLoc
  split <;> exact ⟨rfl, fun _ _ => rfl⟩

theorem ReadOnlyOffset.locate (n : Nat) (h : ReadOnlyOffset off) : off % 4 = 0 ∧ (locate n off).IgnoresWrites := by
  have hcontrol (hoff : off < 0x040) (ho : off ∈ [0x000, 0x010, 0x014, 0x01C] ∨ 0x020 ≤ off) :
      (Machine.locate n off).IgnoresWrites := by
    rw [Machine.locate, if_pos hoff]
    exact controlLoc_ignoresWrites ho
  obtain ho | ⟨k, rfl⟩ | ⟨k, rfl⟩ := h
  · have hrange : off % 4 = 0 ∧ off < 0x040 := by
      simp only [List.mem_cons, List.not_mem_nil, or_false] at ho
      omega
    exact ⟨hrange.1, hcontrol hrange.2 (.inl ho)⟩
  · exact ⟨by omega, hcontrol (by omega) (.inr (by omega))⟩
  · refine ⟨by omega, ?_⟩
    by_cases hk : k.val < 8
    · rw [locate_efc0 n (by omega)]
      exact efcLoc_ignoresWrites _ _
    · rw [show 0x200 + 4 * k.val = 0x220 + 4 * (k.val - 8) by omega, locate_efc1 n (by omega)]
      exact efcLoc_ignoresWrites _ _

/-! ### Locations -/

theorem readLoc_respond (s : State) (r : Response) (l : Loc) : (s.respond r).readLoc l = s.readLoc l := by
  cases l <;> rfl

/-- A host write to a place that stores it changes neither the parameters nor the phase, so the next read is located alike. -/
theorem writeLoc_params_phase (hl : l.writeBlocked = true) (s : State) (v : Word) :
    (s.writeLoc l v).params = s.params ∧ (s.writeLoc l v).phase = s.phase := by
  cases l with
  | cmd => cases hl
  | _ => exact ⟨rfl, rfl⟩

theorem readWord_writeWord (s : State) (w : Nat) (v : Word) : (s.writeWords w [v]).readWord w = v :=
  readWord_writeWords_in s w 0 [v] Nat.one_pos

theorem readByte_writeWord {a w : Nat} (s : State) (v : Word) (ha : ¬ inWords a w 1) :
    (s.writeWords w [v]).readByte a = s.readByte a :=
  readByte_writeWords_out s w a [v] ha

/-- The locations a running command blocks for writes are the ones that store the word written to them. -/
theorem readLoc_writeLoc (hl : l.writeBlocked = true) (s : State) (v : Word) : (s.writeLoc l v).readLoc l = v := by
  cases l with
  | itercap => rfl
  | scalar k => exact s.S_setS_self k v
  | descBase d => exact congrArg Desc.base (s.D_setD_self d _)
  | descLen d => exact congrArg Desc.len (s.D_setD_self d _)
  | descRows d => exact congrArg Desc.rows (s.D_setD_self d _)
  | descCols d => exact congrArg Desc.cols (s.D_setD_self d _)
  | descCap d => exact congrArg Desc.cap (s.D_setD_self d _)
  | om w => exact readWord_writeWord s w v
  | _ => cases hl

/-- A host write stores into OM only at the word it names. -/
theorem readByte_writeLoc {a : Nat} (hl : l.writeBlocked = true) (ha : ∀ w, l = .om w → ¬ inWords a w 1) (s : State)
    (v : Word) : (s.writeLoc l v).readByte a = s.readByte a := by
  cases l with
  | om w => exact readByte_writeWord s v (ha w rfl)
  | cmd => cases hl
  | _ => rfl

/-! ### Accesses -/

theorem hostAccess_read (s : State) (off n : Nat) :
    hostAccess (.read (s.params.blockBase + off) n) s = .next (s.hostRead off n) := by
  rw [hostAccess, if_neg (by omega), Nat.add_sub_cancel_left]

theorem hostAccess_write (s : State) (off n : Nat) (v : Word) :
    hostAccess (.write (s.params.blockBase + off) n v) s = .next (s.hostWrite off n v) := by
  rw [hostAccess, if_neg (by omega), Nat.add_sub_cancel_left]

/-- Another width or a misaligned offset is a bus error, in any phase (20_memory R95). -/
theorem hostAccess_busError {n : Nat} (h : n ≠ 4 ∨ off % 4 ≠ 0) (s : State) (v : Word) :
    hostAccess (.read (s.params.blockBase + off) n) s = .next (s.respond .busError)
      ∧ hostAccess (.write (s.params.blockBase + off) n v) s = .next (s.respond .busError) := by
  rw [hostAccess_read, hostAccess_write, State.hostRead, State.hostWrite, if_pos h, if_pos h]
  exact ⟨rfl, rfl⟩

section Aligned

variable (ho : off % 4 = 0) (hl : locate s.params.omWords.toNat off = l)
include ho hl

theorem hostAccess_read_blocked (hp : s.phase = .busy) (hb : l.readBlocked = true) :
    hostAccess (.read (s.params.blockBase + off) 4) s = .next (s.setBusyacc.respond (.data 0)) := by
  subst hl
  rw [hostAccess_read, State.hostRead, if_neg (by omega), if_pos ⟨hp, hb⟩]

theorem hostAccess_write_blocked (hp : s.phase = .busy) (hb : l.writeBlocked = true) (v : Word) :
    hostAccess (.write (s.params.blockBase + off) 4 v) s = .next (s.setBusyacc.respond .written) := by
  subst hl
  rw [hostAccess_write, State.hostWrite, if_neg (by omega), if_pos ⟨hp, hb⟩]

/-- A read nothing blocks answers the location's value: any location while IDLE, and any that is never blocked. -/
theorem hostAccess_read_free (hb : s.phase = .idle ∨ l.readBlocked = false) :
    hostAccess (.read (s.params.blockBase + off) 4) s = .next (s.respond (.data (s.readLoc l))) := by
  subst hl
  rw [hostAccess_read, State.hostRead, if_neg (by omega), if_neg ?_]
  rintro ⟨hbusy, hblocked⟩
  simp [hbusy, hblocked] at hb

/-- A write nothing blocks has the location's effect. -/
theorem hostAccess_write_free (hb : s.phase = .idle ∨ l.writeBlocked = false) (v : Word) :
    hostAccess (.write (s.params.blockBase + off) 4 v) s = .next ((s.writeLoc l v).respond .written) := by
  subst hl
  rw [hostAccess_write, State.hostWrite, if_neg (by omega), if_neg ?_]
  rintro ⟨hbusy, hblocked⟩
  simp [hbusy, hblocked] at hb

theorem hostAccess_write_ignored (hi : l.IgnoresWrites) (v : Word) :
    hostAccess (.write (s.params.blockBase + off) 4 v) s = .next (s.respond .written) := by
  rw [hostAccess_write_free ho hl (.inr hi.1), hi.2]

/-- A reserved location reads 0 and ignores writes, in any phase (10_state R52, 20_memory R98). -/
theorem hostAccess_reserved (hr : l = .reserved) (v : Word) :
    hostAccess (.read (s.params.blockBase + off) 4) s = .next (s.respond (.data 0))
      ∧ hostAccess (.write (s.params.blockBase + off) 4 v) s = .next (s.respond .written) := by
  subst hr
  exact ⟨hostAccess_read_free ho hl (.inr rfl), hostAccess_write_ignored ho hl ⟨rfl, fun _ _ => rfl⟩ v⟩

/-- A word written while IDLE to a place that stores it reads back, and OM changes nowhere else. -/
theorem hostAccess_write_read (hp : s.phase = .idle) (hw : l.writeBlocked = true) (v : Word) :
    ∃ t, hostAccess (.write (s.params.blockBase + off) 4 v) s = .next t
      ∧ hostAccess (.read (s.params.blockBase + off) 4) t = .next (t.respond (.data v))
      ∧ ∀ a, (∀ w, l = .om w → ¬ inWords a w 1) → t.readByte a = s.readByte a := by
  obtain ⟨hparams, hphase⟩ : ((s.writeLoc l v).respond .written).params = s.params
      ∧ ((s.writeLoc l v).respond .written).phase = s.phase := writeLoc_params_phase hw s v
  refine ⟨_, hostAccess_write_free ho hl (.inl hp) v, ?_, fun a ha => readByte_writeLoc hw ha s v⟩
  rw [← hparams] at hl ⊢
  rw [hostAccess_read_free ho hl (.inl (hphase.trans hp)), readLoc_respond, readLoc_writeLoc hw]

end Aligned

end HostPort

/-- Settles O17: the located operand is blocked, and ITERCAP for writes; STATUS, ITERCNT and a read of ITERCAP never are. -/
theorem busyBlocksScalarsDescriptorsAndOm : Obligations.BusyBlocksScalarsDescriptorsAndOm := by
  unfold Obligations.BusyBlocksScalarsDescriptorsAndOm
  intro s off v hp
  refine ⟨fun hoff => ?_, ?_, hostAccess_read_free (l := .itercap) rfl rfl (.inr rfl),
    hostAccess_read_free (l := .status) rfl rfl (.inr rfl), hostAccess_read_free (l := .itercnt) rfl rfl (.inr rfl)⟩
  · obtain ⟨ho, hread, -⟩ := OperandOffset.locate hoff
    obtain ⟨-, hwrite, -⟩ := locate_writeBlocked (.inl hoff)
    exact ⟨hostAccess_read_blocked ho rfl hp hread, hostAccess_write_blocked ho rfl hp hwrite v⟩
  · exact hostAccess_write_blocked (l := .itercap) rfl rfl hp rfl v

end Sys2Proof.Machine

/-! ## What the host reads and writes at every offset (10_state section 6; 20_memory R82, R98) -/

namespace Sys2Proof.Machine

section PortValues

variable {s : State}

/-! ### STATUS and IE as numbers -/

/-- The flags of STATUS as the number their bits make (10_state R33). -/
theorem statusFlags_eq (b d e r a : Bool) :
    bitWord b 0 ||| bitWord d 1 ||| bitWord e 2 ||| bitWord r 3 ||| bitWord a 4
      = BitVec.ofNat 32 ((if b then 1 else 0) + (if d then 2 else 0) + (if e then 4 else 0) + (if r then 8 else 0)
        + (if a then 16 else 0)) := by
  revert b d e r a
  decide

/-- A byte shifted above the low byte of a word adds 256 times its number. -/
theorem ofNat_or_shift {n : Nat} (hn : n < 256) (c : BitVec 8) :
    BitVec.ofNat 32 n ||| (c.setWidth 32 <<< 8) = BitVec.ofNat 32 (n + 256 * c.toNat) := by
  have hc := c.isLt
  have hsum : 256 * c.toNat + n = 256 * c.toNat ||| n := Nat.two_pow_add_eq_or_of_lt (i := 8) hn c.toNat
  have hshift : (c.setWidth 32 <<< 8).toNat = 256 * c.toNat := by
    simp only [BitVec.toNat_shiftLeft, BitVec.toNat_setWidth, Nat.shiftLeft_eq]
    omega
  apply BitVec.eq_of_toNat_eq
  rw [BitVec.toNat_or, hshift, BitVec.toNat_ofNat, BitVec.toNat_ofNat, Nat.mod_eq_of_lt (by omega), Nat.mod_eq_of_lt (by omega),
    Nat.or_comm, Nat.add_comm, hsum]

theorem statusWord_eq_ofNat (s : State) : s.statusWord
    = BitVec.ofNat 32 ((if s.phase = .busy then 1 else 0) + (if s.status.done then 2 else 0) + (if s.status.err then 4 else 0)
      + (if s.status.rej then 8 else 0) + (if s.status.busyacc then 16 else 0) + 256 * s.status.errcode.toNat) := by
  rw [State.statusWord, statusFlags_eq, ofNat_or_shift (by split_ifs <;> decide)]
  simp only [isBusy_eq, decide_eq_true_eq]

theorem ieWord_eq_ofNat (e : IntEnable) :
    e.word = BitVec.ofNat 32 ((if e.doneIE then 1 else 0) + (if e.errIE then 2 else 0)) := by
  obtain ⟨d, r⟩ := e
  revert d r
  decide

/-- IE keeps bits 1:0 of the word written (10_state R35). -/
theorem ieWord_ofWord (v : Word) : (IntEnable.ofWord v).word = v &&& 3 := by
  apply BitVec.eq_of_getLsbD_eq
  intro k hk
  have h3 : (3 : Word).getLsbD k = (decide (k = 0) || decide (k = 1)) := by
    revert k
    decide
  simp only [IntEnable.word, IntEnable.ofWord, BitVec.getLsbD_or, BitVec.getLsbD_and, h3,
    getLsbD_bitWord _ (show (0 : Nat) < 32 by decide), getLsbD_bitWord _ (show (1 : Nat) < 32 by decide)]
  by_cases h0 : k = 0
  · simp [h0]
  · by_cases h1 : k = 1
    · simp [h1]
    · simp [h0, h1]

theorem kindWord_eq (k : Kind) : k.word = if k = .poly then 0 else if k = .onb1 then 1 else 2 := by
  cases k <;> rfl

theorem rtypeWord_eq (r : RType) : r.word = if r = .generic then 0 else if r = .trinomial then 1 else 2 := by
  cases r <;> rfl

end PortValues

section PortAccesses

variable {s : State}

/-! ### Each kind of place while IDLE -/

theorem host_scalar (hp : s.phase = .idle) (v : Word) (k : SReg) :
    hostAccess (.read (s.params.blockBase + (0x040 + 4 * k.val)) 4) s = .next (s.respond (.data (s.S k)))
      ∧ ∃ t, hostAccess (.write (s.params.blockBase + (0x040 + 4 * k.val)) 4 v) s = .next t
        ∧ t.S k = v ∧ (∀ j, j ≠ k → t.S j = s.S j)
        ∧ t = { s with scalars := t.scalars, env := { s.env with response := .written } } := by
  have ho : (0x040 + 4 * k.val) % 4 = 0 := by omega
  have hl := locate_scalar s.params.omWords.toNat k
  exact ⟨hostAccess_read_free ho hl (.inl hp), _, hostAccess_write_free ho hl (.inl hp) v, s.S_setS_self k v,
    fun j hj => s.S_setS_ne k j v hj, rfl⟩

/-- A descriptor field at offset `o` of its descriptor, which reads as `x` and whose write makes the descriptor `D`. -/
theorem host_desc {d : DReg} {o : Nat} {l : Loc} {x v : Word} {D : Desc} (hp : s.phase = .idle) (ho : o < 0x20 ∧ o % 4 = 0)
    (hl : descLoc d o = l) (hx : s.readLoc l = x) (hD : s.writeLoc l v = s.setD d D) :
    hostAccess (.read (s.params.blockBase + (0x100 + 0x20 * d.val + o)) 4) s = .next (s.respond (.data x))
      ∧ ∃ t, hostAccess (.write (s.params.blockBase + (0x100 + 0x20 * d.val + o)) 4 v) s = .next t
        ∧ t.D d = D ∧ (∀ e, e ≠ d → t.D e = s.D e)
        ∧ t = { s with descs := t.descs, env := { s.env with response := .written } } := by
  obtain ⟨hlt, hmod⟩ := ho
  have hoff : (0x100 + 0x20 * d.val + o) % 4 = 0 := by omega
  have hloc := (locate_desc s.params.omWords.toNat d hlt).trans hl
  have hwrite := hostAccess_write_free hoff hloc (.inl hp) v
  rw [hD] at hwrite
  rw [hostAccess_read_free hoff hloc (.inl hp), hx]
  exact ⟨rfl, _, hwrite, s.D_setD_self d D, fun e he => s.D_setD_ne d e D he, rfl⟩

theorem host_om {w : Nat} (hp : s.phase = .idle) (v : Word) (hw : w < s.params.omWords.toNat) :
    hostAccess (.read (s.params.blockBase + (0x100000 + 4 * w)) 4) s = .next (s.respond (.data (s.readWord w)))
      ∧ ∃ t, hostAccess (.write (s.params.blockBase + (0x100000 + 4 * w)) 4 v) s = .next t
        ∧ t.readWord w = v ∧ (∀ a, ¬ inWords a w 1 → t.readByte a = s.readByte a)
        ∧ t = { s with om := t.om, env := { s.env with response := .written } } := by
  have ho : (0x100000 + 4 * w) % 4 = 0 := by omega
  have hl := locate_om hw
  exact ⟨hostAccess_read_free ho hl (.inl hp), _, hostAccess_write_free ho hl (.inl hp) v, readWord_writeWord s w v,
    fun a ha => readByte_writeWord s v ha, rfl⟩

/-- IE is never blocked (20_memory R96). -/
theorem host_ie (s : State) (v : Word) : ∃ t, hostAccess (.write (s.params.blockBase + 0x00C) 4 v) s = .next t
    ∧ hostAccess (.read (s.params.blockBase + 0x00C) 4) t = .next (t.respond (.data (v &&& 3)))
    ∧ t = { s with ie := t.ie, env := { s.env with response := .written } } := by
  refine ⟨_, hostAccess_write_free (l := .ie) rfl rfl (.inr rfl) v, ?_, rfl⟩
  rw [← ieWord_ofWord]
  exact hostAccess_read_free (s := (s.writeLoc .ie v).respond .written) (l := .ie) rfl rfl (.inr rfl)

/-- A register a running command does not block answers its value in any phase. -/
theorem host_readRegister {off : Nat} {l : Loc} {x : Word} (ho : off % 4 = 0) (hl : locate s.params.omWords.toNat off = l)
    (hb : l.readBlocked = false) (hx : s.readLoc l = x) :
    hostAccess (.read (s.params.blockBase + off) 4) s = .next (s.respond (.data x)) := by
  rw [hostAccess_read_free ho hl (.inr hb), hx]

/-- The registers of an extension-field context whose first one is at offset `base` (10_state R45). -/
theorem host_readContext {base : Nat} {c : Ctx} (hbase : base % 4 = 0)
    (hc : ∀ o, o < 0x20 → locate s.params.omWords.toNat (base + o) = efcLoc c o) :
    ∀ r ∈ ([(0x00, flagWord (s.efc c).valid), (0x04, (s.efc c).kind.word), (0x08, (s.efc c).n), (0x0C, (s.efc c).fieldId),
        (0x10, (s.efc c).rtype.word), (0x14, (s.efc c).k1), (0x18, (s.efc c).k2), (0x1C, (s.efc c).k3)] : List (Nat × Word)),
      hostAccess (.read (s.params.blockBase + (base + r.1)) 4) s = .next (s.respond (.data r.2)) := by
  have hread {o : Nat} {l : Loc} (ho : o < 0x20 ∧ o % 4 = 0) (hl : efcLoc c o = l) (hb : l.readBlocked = false) :
      hostAccess (.read (s.params.blockBase + (base + o)) 4) s = .next (s.respond (.data (s.readLoc l))) :=
    hostAccess_read_free (by omega) ((hc o ho.1).trans hl) (.inr hb)
  simp only [List.forall_mem_cons]
  exact ⟨hread (by decide) rfl rfl, hread (by decide) rfl rfl, hread (by decide) rfl rfl, hread (by decide) rfl rfl,
    hread (by decide) rfl rfl, hread (by decide) rfl rfl, hread (by decide) rfl rfl, hread (by decide) rfl rfl, nofun⟩

end PortAccesses

/-- Settles O18: every offset is located, and an access to it is a bus error, or a read or write of that location. -/
theorem hostPortStoresAndReadsBack : Obligations.HostPortStoresAndReadsBack := by
  unfold Obligations.HostPortStoresAndReadsBack
  intro s off v
  refine ⟨fun bytes h => hostAccess_busError h s v, fun hp hoff => ?_, fun hp k => host_scalar hp v k, fun hp d => ?_,
    fun hp w hw => host_om hp v hw, fun hp => hostAccess_write_free (l := .itercap) rfl rfl (.inl hp) v, host_ie s v, ?_, ?_,
    fun hoff => ?_, fun ho hoff => ?_⟩
  · have hstored : OperandOffset s.params.omWords.toNat off ∨ off = 0x018 := by
      rcases hoff with hk | hd | hcap | hw
      exacts [.inl (.inl hk), .inl (.inr (.inl hd)), .inr hcap, .inl (.inr (.inr hw))]
    obtain ⟨ho, hw, hom⟩ := locate_writeBlocked hstored
    obtain ⟨t, hwrite, hread, hbytes⟩ := hostAccess_write_read ho rfl hp hw v
    exact ⟨t, hwrite, hread, fun a ha => hbytes a fun w hl => ha w (hom w hl)⟩
  · simp only [List.forall_mem_cons]
    exact ⟨host_desc hp (by decide) rfl rfl rfl, host_desc hp (by decide) rfl rfl rfl, host_desc hp (by decide) rfl rfl rfl,
      host_desc hp (by decide) rfl rfl rfl, host_desc hp (by decide) rfl rfl rfl, nofun⟩
  · simp only [List.forall_mem_cons]
    exact ⟨host_readRegister (l := .id) rfl rfl rfl rfl, host_readRegister (l := .cmd) rfl rfl rfl rfl,
      host_readRegister (l := .status) rfl rfl rfl (statusWord_eq_ofNat s),
      host_readRegister (l := .ie) rfl rfl rfl (ieWord_eq_ofNat s.ie),
      host_readRegister (l := .errcmd) rfl rfl rfl rfl, host_readRegister (l := .cmdseq) rfl rfl rfl rfl,
      host_readRegister (l := .itercap) rfl rfl rfl rfl, host_readRegister (l := .itercnt) rfl rfl rfl rfl,
      host_readRegister (l := .sfM) rfl rfl rfl rfl, host_readRegister (l := .sfPoly) rfl rfl rfl rfl,
      host_readRegister (l := .sfValid) rfl rfl rfl rfl, host_readRegister (l := .cobUsed) rfl rfl rfl rfl,
      host_readRegister (l := .cfgOmWords) rfl rfl rfl rfl, host_readRegister (l := .cfgNMax) rfl rfl rfl rfl,
      host_readRegister (l := .cfgCobEntries) rfl rfl rfl rfl, nofun⟩
  · rw [List.forall_mem_cons, List.forall_mem_singleton]
    simp only [← kindWord_eq, ← rtypeWord_eq]
    exact ⟨host_readContext (c := .efc0) rfl fun _ => locate_efc0 _, host_readContext (c := .efc1) rfl fun _ => locate_efc1 _⟩
  · obtain ⟨ho, hi⟩ := ReadOnlyOffset.locate s.params.omWords.toNat hoff
    exact hostAccess_write_ignored ho rfl hi v
  · refine hostAccess_reserved ho rfl ?_ v
    rcases hoff with h | h | h | h | ⟨-, d, f, hd, h5, h8, rfl⟩
    iterate 4 exact locate_reserved (by omega)
    exact (locate_desc _ ⟨d, hd⟩ (by omega)).trans (descLoc_reserved ⟨d, hd⟩ h5 h8)

end Sys2Proof.Machine

/-! ## The command word and the command (30_encoding R110 to R119)

`usesOf`, the columns of the opcode map by opcode, is where the decoder, the encoder and the match and mask words meet: each of
the three is described by it once. -/

namespace Sys2Proof

/-- Which of the fields F1 to F4, ALG and CTX the command of an opcode uses (the columns of R117): F1 to F3 where no other case
stands. Nothing is said of an opcode the map does not list. -/
def usesOf : Nat → Uses
  | 0x00 | 0x3D => ⟨false, false, false, false, false, false⟩
  | 0x13 => ⟨true, true, false, false, true, false⟩
  | 0x14 | 0x63 | 0x66 | 0x68 => ⟨true, true, true, true, false, false⟩
  | 0x19 | 0x1B | 0x1C | 0x1D | 0x1E | 0x23 | 0x25 | 0x26 | 0x27 | 0x43 | 0x44 | 0x45 | 0x46 | 0x47 | 0x50 | 0x55 | 0x56 | 0x6B
  | 0x6C => ⟨true, true, false, false, false, false⟩
  | 0x20 => ⟨false, true, true, false, false, false⟩
  | 0x30 => ⟨false, true, true, false, false, true⟩
  | 0x31 | 0x32 => ⟨true, true, true, false, false, true⟩
  | 0x33 | 0x35 | 0x36 | 0x37 | 0x38 | 0x3C => ⟨true, true, false, false, false, true⟩
  | 0x34 => ⟨true, true, false, false, true, true⟩
  | 0x39 | 0x3A => ⟨true, false, false, false, false, true⟩
  | 0x3B => ⟨false, false, false, false, false, true⟩
  | _ => ⟨true, true, true, false, false, false⟩

section CommandWords

variable {w : Word} {u : Uses} {i j : Instr}

/-! ### What the decoder's checks say -/

theorem legal_eq_ok_iff : legal w u i = .ok j
    ↔ f5Of w = 0 ∧ rsvOf w = 0 ∧ unusedZero w u = true ∧ i.wellFormed = true ∧ i = j := by
  unfold legal
  split
  · rename_i h
    exact iff_of_false nofun fun ⟨h5, hr, _⟩ => h.elim (· h5) (· hr)
  · rename_i h
    push Not at h
    obtain ⟨h5, hr⟩ := h
    cases unusedZero w u <;> cases i.wellFormed <;> simp [h5, hr]

theorem unusedZero_iff : unusedZero w u = true
    ↔ (u.f1 = true ∨ f1Of w = 0) ∧ (u.f2 = true ∨ f2Of w = 0) ∧ (u.f3 = true ∨ f3Of w = 0) ∧ (u.f4 = true ∨ f4Of w = 0)
      ∧ (u.alg = true ∨ algOf w = 0) ∧ (u.ctx = true ∨ ctxOf w = .efc0) := by
  simp [unusedZero, and_assoc]

theorem sqrAlgOf_eq_some_iff {a : SqrAlg} : sqrAlgOf w = some a ↔ algOf w = a.code := by
  unfold sqrAlgOf
  split <;> rename_i h <;> rw [h] <;> cases a <;> decide

theorem invAlgOf_eq_some_iff {a : InvAlg} : invAlgOf w = some a ↔ algOf w = a.code := by
  unfold invAlgOf
  split <;> rename_i h <;> rw [h] <;> cases a <;> decide

theorem invAlgOf_eq_none_iff : invAlgOf w = none ↔ algOf w = 3 := by
  unfold invAlgOf
  split <;> rename_i h <;> rw [h] <;> decide

/-! ### Decoding an encoded command -/

theorem opcOf_encode (i : Instr) : opcOf (encode i) = i.opcode := by
  cases i <;> exact opcOf_pack ..

theorem reserved_encode (i : Instr) : f5Of (encode i) = 0 ∧ rsvOf (encode i) = 0 := by
  cases i <;> exact ⟨f5Of_pack .., rsvOf_pack ..⟩

theorem unusedZero_encode (i : Instr) : unusedZero (encode i) (usesOf i.opcode) = true := by
  cases i <;> simp [unusedZero, encode, Instr.opcode, usesOf]

/-- The decoder reads back the operands the encoder packed; only its checks remain. -/
theorem decode_encode_eq_legal (i : Instr) : decode (encode i) = legal (encode i) (usesOf i.opcode) i := by
  unfold decode
  rw [opcOf_encode]
  cases i
  case bpSqr | efInv => simp [encode, Instr.opcode, usesOf]
  all_goals exact congrArg (legal _ _) (by simp [encode])

theorem decode_encode (h : i.wellFormed = true) : decode (encode i) = .ok i := by
  obtain ⟨h5, hrsv⟩ := reserved_encode i
  rw [decode_encode_eq_legal, legal_eq_ok_iff]
  exact ⟨h5, hrsv, unusedZero_encode i, h, rfl⟩

/-! ### What the decoder can answer -/

/-- The word packed from an opcode and those fields of `w` that `u` uses. -/
def packUsed (opc : BitVec 8) (u : Uses) (w : Word) : Word :=
  pack opc (if u.f1 then f1Of w else 0) (if u.f2 then f2Of w else 0) (if u.f3 then f3Of w else 0) (if u.f4 then f4Of w else 0)
    (if u.alg then algOf w else 0) (if u.ctx then ctxOf w else .efc0)

/-- The decoder's answers for a word: the checks of the command its fields spell, an ALG value with no meaning, or a reserved
opcode. -/
inductive Decoded (w : Word) : Except Reject Instr → Prop where
  | spelled {u : Uses} {i : Instr} (huses : usesOf i.opcode = u) (hopc : opcOf w = i.opcode)
      (henc : encode i = packUsed (BitVec.ofNat 8 i.opcode) u w) : Decoded w (legal w u i)
  | illegalSqrAlg (hopc : opcOf w = 0x13) (halg : sqrAlgOf w = none) : Decoded w (.error .illegalAlg)
  | illegalInvAlg (hopc : opcOf w = 0x34) (halg : invAlgOf w = none) : Decoded w (.error .illegalAlg)
  | reservedOpcode (hopc : ∀ i : Instr, opcOf w ≠ i.opcode) : Decoded w (.error .reservedOpcode)

theorem decoded_decode (w : Word) : Decoded w (decode w) := by
  unfold decode
  split
  case h_5 hopc =>
    split
    · rename_i alg halg
      exact .spelled rfl hopc (by simp [encode, packUsed, Instr.opcode, sqrAlgOf_eq_some_iff.1 halg])
    · exact .illegalSqrAlg hopc ‹_›
  case h_29 hopc =>
    split
    · rename_i alg halg
      exact .spelled rfl hopc (by simp [encode, packUsed, Instr.opcode, invAlgOf_eq_some_iff.1 halg])
    · exact .illegalInvAlg hopc ‹_›
  case h_69 => exact .reservedOpcode fun i => by cases i <;> assumption
  all_goals exact .spelled rfl ‹_› rfl

/-! ### A word is its fields -/

theorem getLsbD_eq_of_extractLsb'_eq {v w : Word} {s n k : Nat} (h : w.extractLsb' s n = v.extractLsb' s n) (hs : s ≤ k)
    (hn : k < s + n) : w.getLsbD k = v.getLsbD k := by
  have hk := congrArg (BitVec.getLsbD · (k - s)) h
  simpa [show k - s < n by omega, Nat.add_sub_cancel' hs] using hk

theorem getLsbD_ctxBit (w : Word) : w.getLsbD 25 = decide (ctxOf w = .efc1) := by
  unfold ctxOf
  cases w.getLsbD 25 <;> rfl

/-- Two words with the same fields of R110 are the same word. -/
theorem word_ext {v w : Word} (hopc : opcOf w = opcOf v) (h1 : f1Of w = f1Of v) (h2 : f2Of w = f2Of v) (h3 : f3Of w = f3Of v)
    (h4 : f4Of w = f4Of v) (h5 : f5Of w = f5Of v) (halg : algOf w = algOf v) (hctx : ctxOf w = ctxOf v)
    (hrsv : rsvOf w = rsvOf v) : w = v := by
  have field {s n k : Nat} (h : (w.extractLsb' s n).toFin = (v.extractLsb' s n).toFin) (hk : s ≤ k ∧ k < s + n) :=
    getLsbD_eq_of_extractLsb'_eq (BitVec.toFin_inj.1 h) hk.1 hk.2
  refine BitVec.eq_of_getLsbD_eq fun k hk => ?_
  obtain h | h | h | h | h | h | h | rfl | h : k < 8 ∨ (8 ≤ k ∧ k < 11) ∨ (11 ≤ k ∧ k < 14) ∨ (14 ≤ k ∧ k < 17)
      ∨ (17 ≤ k ∧ k < 20) ∨ (20 ≤ k ∧ k < 23) ∨ (23 ≤ k ∧ k < 25) ∨ k = 25 ∨ (26 ≤ k ∧ k < 32) := by omega
  · exact getLsbD_eq_of_extractLsb'_eq (s := 0) (n := 8) (BitVec.eq_of_toNat_eq hopc) k.zero_le h
  · exact field h1 h
  · exact field h2 h
  · exact field h3 h
  · exact field h4 h
  · exact field h5 h
  · exact field halg h
  · rw [getLsbD_ctxBit, getLsbD_ctxBit, hctx]
  · exact field hrsv h

theorem ite_eq_of_or {α : Type} {b : Bool} {x y : α} (h : b = true ∨ x = y) : (if b then x else y) = x :=
  ite_eq_left_iff.2 fun hb => (h.resolve_left hb).symm

theorem toNat_ofNat_opcOf (w : Word) : (BitVec.ofNat 8 (opcOf w)).toNat = opcOf w := by
  rw [opcOf, BitVec.ofNat_toNat, BitVec.setWidth_eq]

/-- A word whose reserved bits and unused fields are 0 is packed from its opcode and the fields it uses. -/
theorem packUsed_eq (hopc : opcOf w = i.opcode) (h5 : f5Of w = 0) (hrsv : rsvOf w = 0) (hu : unusedZero w u = true) :
    packUsed (BitVec.ofNat 8 i.opcode) u w = w := by
  obtain ⟨h1, h2, h3, h4, halg, hctx⟩ := unusedZero_iff.1 hu
  rw [← hopc, packUsed, ite_eq_of_or h1, ite_eq_of_or h2, ite_eq_of_or h3, ite_eq_of_or h4, ite_eq_of_or halg, ite_eq_of_or hctx]
  exact word_ext ((opcOf_pack ..).trans (toNat_ofNat_opcOf w)) (f1Of_pack ..) (f2Of_pack ..) (f3Of_pack ..) (f4Of_pack ..)
    ((f5Of_pack ..).trans h5.symm) (algOf_pack ..) (ctxOf_pack ..) ((rsvOf_pack ..).trans hrsv.symm)

theorem encode_of_decode (h : decode w = .ok i) : i.wellFormed = true ∧ encode i = w := by
  have hd := decoded_decode w
  rw [h] at hd
  generalize hr : (Except.ok i : Except Reject Instr) = r at hd
  cases hd with
  | spelled huses hopc henc =>
    obtain ⟨h5, hrsv, hu, hwf, rfl⟩ := legal_eq_ok_iff.1 hr.symm
    exact ⟨hwf, henc.trans (packUsed_eq hopc h5 hrsv hu)⟩
  | illegalSqrAlg | illegalInvAlg | reservedOpcode => cases hr

/-! ### Match and mask words (R118) -/

/-- The mask of the unused fields. -/
def unusedMask (u : Uses) : Word :=
  (if u.f1 then 0#32 else 0x00000700) ||| (if u.f2 then 0#32 else 0x00003800) ||| (if u.f3 then 0#32 else 0x0001C000)
    ||| (if u.f4 then 0#32 else 0x000E0000) ||| (if u.alg then 0#32 else 0x01800000) ||| (if u.ctx then 0#32 else 0x02000000)

/-- The match and mask words of an opcode: the reserved bits, F5, OPC and the unused fields, and for BP.SQR bit 24, which its
selector leaves 0. -/
def maskRowOf (opc : BitVec 8) : MaskRow where
  matchWord := opc.setWidth 32
  mask := 0xFC7000FF ||| unusedMask (usesOf opc.toNat) ||| (if opc.toNat = 0x13 then 0x01000000 else 0#32)

/-- The opcode table's rows are the words the fields give, each for its own opcode. -/
theorem eq_maskRowOf_of_mem : ∀ r ∈ maskRows, r = maskRowOf (r.matchWord.setWidth 8) := by decide +kernel

theorem decode_matchWord_of_mem : ∀ r ∈ maskRows, (decode r.matchWord).toOption.isSome = true := by decide +kernel

theorem exists_opcode_of_mem {opc : BitVec 8} (h : maskRowOf opc ∈ maskRows) : ∃ i : Instr, opc.toNat = i.opcode := by
  have hsome := decode_matchWord_of_mem _ h
  cases hd : decode (maskRowOf opc).matchWord with
  | error r =>
    rw [hd] at hsome
    cases hsome
  | ok i =>
    refine ⟨i, ?_⟩
    rw [← opcOf_encode, (encode_of_decode hd).2]
    simp [maskRowOf, opcOf, Nat.mod_eq_of_lt opc.isLt]

theorem maskRowOf_opcode_mem (i : Instr) : maskRowOf (BitVec.ofNat 8 i.opcode) ∈ maskRows := by
  cases i <;> simp only [Instr.opcode] <;> decide +kernel

/-- An encoded command passes the two checks beside the masks exactly when its scalar base does not run past S7. -/
theorem maskExtra_encode (i : Instr) : maskExtra (encode i) = i.wellFormed := by
  unfold maskExtra
  rw [opcOf_encode]
  cases i
  case bpRedt | bpRedp | efCfg =>
    simp [encode, Instr.opcode, Instr.wellFormed, Instr.scalarBase?, scalarBaseOk]
  case efInv dst a alg ctx => cases alg <;> simp [encode, Instr.opcode, Instr.wellFormed, Instr.scalarBase?, InvAlg.code]
  all_goals rfl

/-! ### A field under its mask -/

theorem getLsbD_mask (s n k : Nat) :
    ((BitVec.allOnes n).setWidth 32 <<< s).getLsbD k = decide (k < 32 ∧ s ≤ k ∧ k < s + n) := by
  rw [Bool.eq_iff_iff]
  simp only [BitVec.getLsbD_shiftLeft, BitVec.getLsbD_setWidth, BitVec.getLsbD_allOnes, Bool.and_eq_true, decide_eq_true_eq,
    Bool.not_eq_eq_eq_not, Bool.not_true, decide_eq_false_iff_not]
  omega

/-- The bits from `s` to `s + n - 1` are 0 when their mask finds nothing. -/
theorem extractLsb'_eq_zero_iff (s n : Nat) :
    w.extractLsb' s n = 0#n ↔ w &&& ((BitVec.allOnes n).setWidth 32 <<< s) = 0#32 := by
  refine ⟨fun h => BitVec.eq_of_getLsbD_eq fun k hk => ?_, fun h => BitVec.eq_of_getLsbD_eq fun k hk => ?_⟩
  · rw [BitVec.getLsbD_and, getLsbD_mask]
    by_cases hin : s ≤ k ∧ k < s + n
    · rw [getLsbD_eq_of_extractLsb'_eq (v := 0#32) (by simpa using h) hin.1 hin.2]
      simp
    · simp [hin]
  · have hb := congrArg (BitVec.getLsbD · (s + k)) h
    by_cases hin : s + k < 32
    · simpa [getLsbD_mask, hk, hin] using hb
    · simp [BitVec.getLsbD_of_ge w (s + k) (by omega)]

theorem f1Of_eq_zero_iff : f1Of w = 0 ↔ w &&& 0x700 = 0#32 := BitVec.toFin_inj.trans (extractLsb'_eq_zero_iff 8 3)

theorem f2Of_eq_zero_iff : f2Of w = 0 ↔ w &&& 0x3800 = 0#32 := BitVec.toFin_inj.trans (extractLsb'_eq_zero_iff 11 3)

theorem f3Of_eq_zero_iff : f3Of w = 0 ↔ w &&& 0x1C000 = 0#32 := BitVec.toFin_inj.trans (extractLsb'_eq_zero_iff 14 3)

theorem f4Of_eq_zero_iff : f4Of w = 0 ↔ w &&& 0xE0000 = 0#32 := BitVec.toFin_inj.trans (extractLsb'_eq_zero_iff 17 3)

theorem f5Of_eq_zero_iff : f5Of w = 0 ↔ w &&& 0x700000 = 0#32 := BitVec.toFin_inj.trans (extractLsb'_eq_zero_iff 20 3)

theorem algOf_eq_zero_iff : algOf w = 0 ↔ w &&& 0x1800000 = 0#32 := BitVec.toFin_inj.trans (extractLsb'_eq_zero_iff 23 2)

theorem rsvOf_eq_zero_iff : rsvOf w = 0 ↔ w &&& 0xFC000000 = 0#32 := BitVec.toFin_inj.trans (extractLsb'_eq_zero_iff 26 6)

theorem getLsbD_eq_false_iff_and (k : Nat) : w.getLsbD k = false ↔ w &&& ((BitVec.allOnes 1).setWidth 32 <<< k) = 0#32 := by
  rw [← extractLsb'_eq_zero_iff, BitVec.getLsbD_eq_extractLsb']
  generalize w.extractLsb' k 1 = b
  decide +revert

theorem ctxOf_eq_efc0_iff : ctxOf w = .efc0 ↔ w &&& 0x2000000 = 0#32 := by
  refine Iff.trans ?_ (getLsbD_eq_false_iff_and 25)
  rw [getLsbD_ctxBit]
  cases ctxOf w <;> decide

/-- BP.SQR's selectors are the ALG values with bit 24 clear. -/
theorem sqrAlgOf_ne_none_iff : sqrAlgOf w ≠ none ↔ w &&& 0x1000000 = 0#32 := by
  refine Iff.trans ?_ (getLsbD_eq_false_iff_and 24)
  have hbit : w.getLsbD 24 = (algOf w).val.testBit 1 :=
    (BitVec.getLsbD_extractLsb' (x := w) (start := 23) (len := 2) (i := 1)).symm
  rw [hbit]
  unfold sqrAlgOf
  split <;> rename_i h <;> rw [h] <;> decide

theorem and_ite_eq_zero_iff {b : Bool} {m : Word} : w &&& (if b then 0#32 else m) = 0#32 ↔ b = true ∨ w &&& m = 0#32 := by
  cases b <;> simp

theorem and_unusedMask_eq_zero_iff : w &&& unusedMask u = 0#32 ↔ unusedZero w u = true := by
  simp only [unusedMask, BitVec.and_or_distrib_left, BitVec.or_eq_zero_iff, and_ite_eq_zero_iff, unusedZero_iff,
    f1Of_eq_zero_iff, f2Of_eq_zero_iff, f3Of_eq_zero_iff, f4Of_eq_zero_iff, algOf_eq_zero_iff, ctxOf_eq_efc0_iff, and_assoc]

theorem setWidth_or_eq_setWidth_iff {a b : BitVec 8} {m : Word} (hm : m.setWidth 8 = 0#8) :
    a.setWidth 32 ||| m = b.setWidth 32 ↔ a = b ∧ m = 0#32 := by
  refine ⟨fun h => ⟨?_, BitVec.eq_of_getLsbD_eq fun k hk => ?_⟩, fun ⟨hab, h0⟩ => by rw [hab, h0, BitVec.or_zero]⟩
  · simpa [hm] using congrArg (BitVec.setWidth 8) h
  · by_cases hk8 : k < 8
    · simpa [hk8] using congrArg (BitVec.getLsbD · k) hm
    · have hbit := congrArg (BitVec.getLsbD · k) h
      have hhigh (c : BitVec 8) : c.getLsbD k = false := BitVec.getLsbD_of_ge c k (by omega)
      simpa [hhigh] using hbit

theorem and_opcMask (w : Word) : w &&& 0xFF = (w.extractLsb' 0 8).setWidth 32 := by
  refine BitVec.eq_of_getLsbD_eq fun k hk => ?_
  rw [BitVec.getLsbD_and, show (0xFF : Word) = (BitVec.allOnes 8).setWidth 32 <<< 0 from rfl, getLsbD_mask]
  simp [hk, Bool.and_comm]

/-- A mask of all of OPC and of other bits finds an opcode when OPC is that opcode and the other bits are 0. -/
theorem and_or_eq_opcode_iff {opc : BitVec 8} {m : Word} (hm : m.setWidth 8 = 0#8) :
    w &&& (0xFF ||| m) = opc.setWidth 32 ↔ opcOf w = opc.toNat ∧ w &&& m = 0#32 := by
  have hopc : opcOf w = opc.toNat ↔ w.extractLsb' 0 8 = opc := BitVec.toNat_inj
  rw [hopc, BitVec.and_or_distrib_left, and_opcMask]
  exact setWidth_or_eq_setWidth_iff (by simp [hm])

theorem setWidth_unusedMask (u : Uses) : (unusedMask u).setWidth 8 = 0#8 := by
  obtain ⟨f1, f2, f3, f4, alg, ctx⟩ := u
  decide +revert

theorem and_sqrAlgMask_eq_zero_iff (n : Nat) :
    w &&& (if n = 0x13 then 0x01000000 else 0#32) = 0#32 ↔ (n = 0x13 → sqrAlgOf w ≠ none) := by
  rw [sqrAlgOf_ne_none_iff]
  split <;> simp [*]

/-- A word meets an opcode's match and mask words when it has the opcode, zeros in the reserved bits and the unused fields, and
for BP.SQR a selector with a meaning. -/
theorem and_mask_eq_matchWord_iff {opc : BitVec 8} : w &&& (maskRowOf opc).mask = (maskRowOf opc).matchWord
    ↔ opcOf w = opc.toNat ∧ f5Of w = 0 ∧ rsvOf w = 0 ∧ unusedZero w (usesOf opc.toNat) = true
      ∧ (opc.toNat = 0x13 → sqrAlgOf w ≠ none) := by
  have hmask : (maskRowOf opc).mask = 0xFF ||| (0x00700000 ||| 0xFC000000 ||| unusedMask (usesOf opc.toNat)
      ||| if opc.toNat = 0x13 then 0x01000000 else 0#32) := by
    simp only [maskRowOf, ← BitVec.or_assoc]
    rfl
  rw [hmask]
  refine (and_or_eq_opcode_iff ?_).trans ?_
  · simp only [BitVec.setWidth_or, setWidth_unusedMask]
    split <;> decide
  · simp only [BitVec.and_or_distrib_left, BitVec.or_eq_zero_iff, and_sqrAlgMask_eq_zero_iff, ← f5Of_eq_zero_iff,
      ← rsvOf_eq_zero_iff, and_unusedMask_eq_zero_iff, and_assoc]

theorem maskAccepts_iff : maskAccepts w = true ↔ maskRowOf (BitVec.ofNat 8 (opcOf w)) ∈ maskRows ∧ f5Of w = 0 ∧ rsvOf w = 0
    ∧ unusedZero w (usesOf (opcOf w)) = true ∧ (opcOf w = 0x13 → sqrAlgOf w ≠ none) ∧ maskExtra w = true := by
  rw [maskAccepts, Bool.and_eq_true, List.any_eq_true]
  refine ⟨fun ⟨⟨r, hr, h⟩, hextra⟩ => ?_, fun ⟨hrow, h5, hrsv, hu, hsqr, hextra⟩ => ⟨⟨_, hrow, ?_⟩, hextra⟩⟩
  · obtain ⟨opc, rfl⟩ : ∃ opc, r = maskRowOf opc := ⟨_, eq_maskRowOf_of_mem r hr⟩
    obtain ⟨hopc, h5, hrsv, hu, hsqr⟩ := and_mask_eq_matchWord_iff.1 (beq_iff_eq.1 h)
    rw [hopc, BitVec.ofNat_toNat, BitVec.setWidth_eq]
    exact ⟨hr, h5, hrsv, hu, hsqr, hextra⟩
  · rw [beq_iff_eq, and_mask_eq_matchWord_iff, toNat_ofNat_opcOf]
    exact ⟨rfl, h5, hrsv, hu, hsqr⟩

theorem maskAccepts_encode (h : i.wellFormed = true) : maskAccepts (encode i) = true := by
  obtain ⟨h5, hrsv⟩ := reserved_encode i
  rw [maskAccepts_iff, opcOf_encode, maskExtra_encode]
  refine ⟨maskRowOf_opcode_mem i, h5, hrsv, unusedZero_encode i, ?_, h⟩
  cases i
  case bpSqr => simp [encode]
  all_goals exact nofun

theorem decode_of_maskAccepts (h : maskAccepts w = true) : ∃ i, decode w = .ok i := by
  obtain ⟨hrow, h5, hrsv, hu, hsqr, hextra⟩ := maskAccepts_iff.1 h
  have hd := decoded_decode w
  generalize decode w = r at hd ⊢
  cases hd with
  | @spelled u i huses hopc henc =>
    rw [hopc, huses] at hu
    have hw : encode i = w := henc.trans (packUsed_eq hopc h5 hrsv hu)
    rw [← hw, maskExtra_encode] at hextra
    exact ⟨i, legal_eq_ok_iff.2 ⟨h5, hrsv, hu, hextra, rfl⟩⟩
  | illegalSqrAlg hopc halg => exact absurd halg (hsqr hopc)
  | illegalInvAlg hopc halg => simp [maskExtra, hopc, invAlgOf_eq_none_iff.1 halg] at hextra
  | reservedOpcode hopc =>
    obtain ⟨i, hi⟩ := exists_opcode_of_mem hrow
    exact absurd ((toNat_ofNat_opcOf w).symm.trans hi) (hopc i)

end CommandWords

/-- Settles O1: the fields read back as they were packed, so only the checks of the decoder remain. -/
theorem decodeOfEncodeIsTheCommand : Obligations.DecodeOfEncodeIsTheCommand := by
  unfold Obligations.DecodeOfEncodeIsTheCommand
  exact fun i => decode_encode

/-- Settles O2, by the decoder's answers: a word it accepts is packed from the fields it reads. -/
theorem encodeOfDecodeIsTheWord : Obligations.EncodeOfDecodeIsTheWord := by
  unfold Obligations.EncodeOfDecodeIsTheWord
  exact fun w i => encode_of_decode

/-- Settles O3: an accepted word is an encoding, which meets its opcode's row; a word that meets a row passes the checks of the
command its fields spell. -/
theorem decoderAcceptsByMatchAndMask : Obligations.DecoderAcceptsByMatchAndMask := by
  unfold Obligations.DecoderAcceptsByMatchAndMask
  refine fun w => ⟨fun ⟨i, h⟩ => ?_, decode_of_maskAccepts⟩
  obtain ⟨hwf, rfl⟩ := encode_of_decode h
  exact maskAccepts_encode hwf

/-- Settles O4: each word is computed from its command, and decodes to it by the round trip. -/
theorem workedEncodings : Obligations.WorkedEncodings := by
  unfold Obligations.WorkedEncodings
  have worked {i : Instr} {w : Word} (hwf : i.wellFormed = true) (hw : encode i = w) : encode i = w ∧ decode w = .ok i :=
    ⟨hw, hw ▸ decode_encode hwf⟩
  exact ⟨worked rfl rfl, worked rfl rfl, worked rfl rfl, worked rfl rfl, worked rfl rfl, worked rfl rfl, worked rfl rfl,
    worked rfl rfl, rfl⟩

end Sys2Proof

/-! ## The engine's turn (70_reset_and_hazards R450, R451; 30_encoding R115) -/

namespace Sys2Proof.Machine

theorem engineTurn_of_decode_ok {s : State} {i : Instr} (hp : s.phase = .busy) (hd : decode s.cmd = .ok i) :
    engineTurn s = exec i s := by
  simp only [engineTurn, hp, hd]

theorem engineTurn_of_decode_error {s : State} {r : Reject} (hp : s.phase = .busy) (hd : decode s.cmd = .error r) :
    engineTurn s = .next (s.latch .illegalCmd 0) := by
  simp only [engineTurn, hp, hd]

/-- Settles O5: both kinds of step are an engine turn, and consuming the input keeps the phase and CMD. -/
theorem engineTurnRunsTheDecodedCommand : Obligations.EngineTurnRunsTheDecodedCommand := by
  unfold Obligations.EngineTurnRunsTheDecodedCommand
  refine fun s hp => ⟨fun i hd => ⟨fun hi => ?_, fun rest hi => ?_⟩, fun r hd => ⟨fun hi => ?_, fun rest hi => ?_⟩⟩
  · rw [step_of_inputs_nil hi, engineTurn_of_decode_ok hp hd]
  · rw [step_of_inputs_engine hi]
    exact engineTurn_of_decode_ok (s := s.withInputs rest) hp hd
  · rw [step_of_inputs_nil hi, engineTurn_of_decode_error hp hd]
  · rw [step_of_inputs_engine hi]
    exact engineTurn_of_decode_error (s := s.withInputs rest) hp hd

end Sys2Proof.Machine

/-! ## Commands without operands (40_control R140; 44_basis_conversion R276)

NOP and EF.FLUSH check nothing and draw nothing, and at most the cache differs after them. -/

namespace Sys2Proof.Machine

theorem exec_nop (s : State) : exec .nop s = .next (s.complete 0) := finish_ok s s

theorem exec_efFlush (s : State) : exec .efFlush s = .next (State.complete { s with cob := [] } 0) :=
  finish_ok s { s with cob := [] }

/-- The cache is no part of what `Effect` speaks of, so a commit to it alone has the effect of no write. -/
theorem effect_complete_withCob (s : State) (cache : List CobEntry) :
    Effect s (State.complete { s with cob := cache } 0) 0 [] [] [] :=
  Effect_of rfl ⟨rfl, rfl, rfl, rfl, rfl, rfl⟩ (fun _ _ => rfl) (fun _ _ => rfl) (fun _ _ => rfl) ⟨rfl, rfl, rfl⟩
    (fun _ => rfl)

theorem readLoc_cobUsed_of_cob_nil {t : State} (h : t.cob = []) : t.readLoc .cobUsed = 0 := by
  simp [State.readLoc, State.cobUsed, h]

/-- Settles O19: NOP commits the cache it found, EF.FLUSH the empty one, and neither commits anything else. -/
theorem nopAndFlushComplete : Obligations.NopAndFlushComplete := by
  unfold Obligations.NopAndFlushComplete
  intro s
  constructor
  · exact Completes_of (exec_nop s) ⟨effect_complete_withCob s s.cob, rfl, rfl, rfl, rfl⟩
  · exact Completes_of (exec_efFlush s)
      ⟨rfl, readLoc_cobUsed_of_cob_nil rfl, effect_complete_withCob s [], rfl, rfl, rfl⟩

end Sys2Proof.Machine

/-! ## Numbers as polynomials over GF(2) (00_scope R9)

The model's operations on numbers whose bits are coefficients are those of the ring `(ZMod 2)[X]`: each is tied to its
counterpart once, and the facts about products, division, greatest common divisors and irreducibility come from the ring. -/

namespace Sys2Proof.Machine

section Gf2Polynomials

open Polynomial

/-! ### Bits -/

/-- A bit as an element of GF(2). -/
def gf2Bit (x : Bool) : ZMod 2 := if x then 1 else 0

theorem gf2Bit_xor (x y : Bool) : gf2Bit (x ^^ y) = gf2Bit x + gf2Bit y := by
  revert x y
  decide

theorem gf2Bit_and (x y : Bool) : gf2Bit (x && y) = gf2Bit x * gf2Bit y := by
  revert x y
  decide

theorem gf2Bit_injective : Function.Injective gf2Bit := by
  unfold Function.Injective
  decide

theorem gf2Bit_surjective : Function.Surjective gf2Bit := by
  unfold Function.Surjective
  decide

/-- A parity is a sum over GF(2). -/
theorem gf2Bit_parity (n : Nat) (p : Nat → Bool) :
    gf2Bit (((List.range n).filter p).length % 2 == 1) = ∑ i ∈ Finset.range n, gf2Bit (p i) := by
  induction n with
  | zero => rfl
  | succ n ih =>
    rw [Finset.sum_range_succ, ← ih, ← gf2Bit_xor, List.range_succ, List.filter_append, List.length_append]
    congr 1
    rcases Nat.mod_two_eq_zero_or_one ((List.range n).filter p).length with h | h <;> cases hp : p n <;>
      simp [hp, Nat.add_mod, h]

/-! ### The polynomial of a number -/

/-- The polynomial whose coefficients are the bits of `a` (R9). -/
noncomputable def gf2Poly (a : Nat) : (ZMod 2)[X] := ∑ i ∈ Finset.range (bitLen a), if a.testBit i then X ^ i else 0

@[simp] theorem coeff_gf2Poly (a k : Nat) : (gf2Poly a).coeff k = gf2Bit (a.testBit k) := by
  have hterm (i : Nat) : (if a.testBit i then (X : (ZMod 2)[X]) ^ i else 0).coeff k
      = if k = i then gf2Bit (a.testBit i) else 0 := by
    cases a.testBit i <;> simp [gf2Bit, coeff_X_pow]
  simp only [gf2Poly, finsetSum_coeff, hterm, Finset.sum_ite_eq, Finset.mem_range]
  split
  · rfl
  · rename_i h
    rw [Nat.testBit_lt_two_pow (Nat.lt_of_lt_of_le (lt_two_pow_bitLen a) (Nat.pow_le_pow_right (by decide) (by omega)))]
    rfl

theorem gf2Poly_injective : Function.Injective gf2Poly := by
  refine fun a b h => Nat.eq_of_testBit_eq fun k => gf2Bit_injective ?_
  rw [← coeff_gf2Poly, h, coeff_gf2Poly]

theorem gf2Poly_two_pow (n : Nat) : gf2Poly (2 ^ n) = X ^ n := by
  ext k
  rw [coeff_gf2Poly, coeff_X_pow, Nat.testBit_two_pow]
  simp [gf2Bit, eq_comm]

@[simp] theorem gf2Poly_zero : gf2Poly 0 = 0 := rfl

@[simp] theorem gf2Poly_one : gf2Poly 1 = 1 := gf2Poly_two_pow 0

@[simp] theorem gf2Poly_two : gf2Poly 2 = X := (gf2Poly_two_pow 1).trans (pow_one X)

@[simp] theorem gf2Poly_eq_zero_iff {a : Nat} : gf2Poly a = 0 ↔ a = 0 := by
  rw [← gf2Poly_zero, gf2Poly_injective.eq_iff]

/-- The exclusive or is the sum. -/
@[simp] theorem gf2Poly_xor (a b : Nat) : gf2Poly (a ^^^ b) = gf2Poly a + gf2Poly b := by
  ext k
  simp [gf2Bit_xor]

@[simp] theorem gf2Poly_shiftLeft (a n : Nat) : gf2Poly (a <<< n) = gf2Poly a * X ^ n := by
  ext k
  rw [coeff_gf2Poly, coeff_mul_X_pow', coeff_gf2Poly, Nat.testBit_shiftLeft]
  by_cases h : n ≤ k <;> simp [h, gf2Bit]

theorem gf2Poly_xorSum (n : Nat) (g : Nat → Nat) : gf2Poly (xorSum n g) = ∑ i ∈ Finset.range n, gf2Poly (g i) := by
  induction n with
  | zero => rfl
  | succ n ih => rw [xorSum, gf2Poly_xor, ih, Finset.sum_range_succ]

/-- Every polynomial over GF(2) is that of a number. -/
theorem gf2Poly_surjective : Function.Surjective gf2Poly := by
  intro p
  induction p using Polynomial.induction_on' with
  | add p q hp hq =>
    obtain ⟨a, rfl⟩ := hp
    obtain ⟨b, rfl⟩ := hq
    exact ⟨a ^^^ b, gf2Poly_xor a b⟩
  | monomial n c =>
    obtain ⟨x, rfl⟩ := gf2Bit_surjective c
    cases x with
    | false => exact ⟨0, by simp [gf2Bit]⟩
    | true => exact ⟨2 ^ n, by rw [gf2Poly_two_pow, X_pow_eq_monomial]; rfl⟩

/-! ### Products and squares -/

/-- The carry-less product is the product. -/
@[simp] theorem gf2Poly_clmul (a b : Nat) : gf2Poly (clmul a b) = gf2Poly a * gf2Poly b := by
  rw [clmul, gf2Poly_xorSum, gf2Poly.eq_def b, Finset.mul_sum]
  refine Finset.sum_congr rfl fun i _ => ?_
  split
  · exact gf2Poly_shiftLeft a i
  · simp

theorem gf2Bit_productBit (a b k : Nat) : gf2Bit (productBit a b k) = (gf2Poly a * gf2Poly b).coeff k := by
  rw [productBit, gf2Bit_parity, coeff_mul, Finset.Nat.sum_antidiagonal_eq_sum_range_succ_mk]
  simp [gf2Bit_and]

/-- The bits of a carry-less product are parities of pairs (R9). -/
theorem testBit_clmul (a b k : Nat) : (clmul a b).testBit k = productBit a b k := by
  apply gf2Bit_injective
  rw [gf2Bit_productBit, ← gf2Poly_clmul, coeff_gf2Poly]

/-- Spreading the bits puts `x²` for `x`. -/
theorem gf2Poly_spreadBits (a : Nat) : gf2Poly (spreadBits a) = expand (ZMod 2) 2 (gf2Poly a) := by
  rw [spreadBits, gf2Poly_xorSum, gf2Poly.eq_def a, map_sum]
  refine Finset.sum_congr rfl fun i _ => ?_
  split
  · simp [pow_mul]
  · simp

theorem testBit_spreadBits (a k : Nat) : (spreadBits a).testBit k = (k % 2 == 0 && a.testBit (k / 2)) := by
  apply gf2Bit_injective
  rw [← coeff_gf2Poly, gf2Poly_spreadBits, coeff_expand Nat.two_pos, coeff_gf2Poly]
  by_cases h : k % 2 = 0 <;> simp [h, gf2Bit, Nat.dvd_iff_mod_eq_zero]

/-- Over GF(2) the spread bits are the square (41 R154). -/
theorem spreadBits_eq_clmul (a : Nat) : spreadBits a = clmul a a := by
  apply gf2Poly_injective
  rw [gf2Poly_spreadBits, ZMod.expand_card, gf2Poly_clmul, sq]

/-! ### Degrees -/

theorem bitLen_le_iff {a n : Nat} : bitLen a ≤ n ↔ a < 2 ^ n := by
  refine ⟨fun h => Nat.lt_of_lt_of_le (lt_two_pow_bitLen a) (Nat.pow_le_pow_right (by decide) h), fun h => ?_⟩
  unfold bitLen
  split
  · exact Nat.zero_le n
  · rename_i hne
    exact (Nat.log2_lt hne).2 h

theorem bitLen_eq_zero_iff {a : Nat} : bitLen a = 0 ↔ a = 0 := by
  rw [← Nat.le_zero, bitLen_le_iff]
  omega

theorem degree_gf2Poly_lt_iff {a n : Nat} : (gf2Poly a).degree < n ↔ a < 2 ^ n := by
  rw [degree_lt_iff_coeff_zero]
  refine ⟨fun h => Nat.lt_pow_two_of_testBit a fun k hk => gf2Bit_injective ?_, fun h k hk => ?_⟩
  · rw [← coeff_gf2Poly, h k hk]
    rfl
  · rw [coeff_gf2Poly, Nat.testBit_lt_two_pow (Nat.lt_of_lt_of_le h (Nat.pow_le_pow_right (by decide) hk))]
    rfl

theorem natDegree_gf2Poly (a : Nat) : (gf2Poly a).natDegree = bitLen a - 1 := by
  by_cases ha : a = 0
  · simp [ha, bitLen]
  have hpos : bitLen a ≠ 0 := fun h => ha (bitLen_eq_zero_iff.1 h)
  have hlt : (gf2Poly a).natDegree < bitLen a :=
    (natDegree_lt_iff_degree_lt (by simpa using ha)).2 (degree_gf2Poly_lt_iff.2 (lt_two_pow_bitLen a))
  refine natDegree_eq_of_le_of_coeff_ne_zero (by omega) ?_
  rw [coeff_gf2Poly, testBit_of_bitLen (by omega : bitLen a = bitLen a - 1 + 1)]
  exact one_ne_zero

/-- A nonzero polynomial over GF(2) is monic. -/
theorem monic_gf2Poly {a : Nat} (ha : a ≠ 0) : (gf2Poly a).Monic := by
  have hpos : bitLen a ≠ 0 := fun h => ha (bitLen_eq_zero_iff.1 h)
  rw [Monic, leadingCoeff, natDegree_gf2Poly, coeff_gf2Poly, testBit_of_bitLen (by omega : bitLen a = bitLen a - 1 + 1)]
  rfl

/-- The only unit is 1. -/
theorem isUnit_gf2Poly_iff {a : Nat} : IsUnit (gf2Poly a) ↔ a = 1 := by
  refine ⟨fun h => gf2Poly_injective ?_, fun h => by simp [h]⟩
  rw [gf2Poly_one]
  exact (monic_gf2Poly fun h0 => not_isUnit_zero (h0 ▸ h : IsUnit (gf2Poly 0))).eq_one_of_isUnit h

theorem lt_of_bitLen_lt {a b : Nat} (h : bitLen a < bitLen b) : a < b :=
  Nat.lt_of_not_le fun hle => Nat.not_le_of_lt h (bitLen_le_iff.2 (Nat.lt_of_le_of_lt hle (lt_two_pow_bitLen a)))

theorem clmul_eq_zero_iff {a b : Nat} : clmul a b = 0 ↔ a = 0 ∨ b = 0 := by
  rw [← gf2Poly_eq_zero_iff, gf2Poly_clmul, mul_eq_zero, gf2Poly_eq_zero_iff, gf2Poly_eq_zero_iff]

/-- The degree of a product is the sum of the degrees. -/
theorem bitLen_clmul {a b : Nat} (ha : a ≠ 0) (hb : b ≠ 0) : bitLen (clmul a b) + 1 = bitLen a + bitLen b := by
  have hdeg := natDegree_mul (mt gf2Poly_eq_zero_iff.1 ha) (mt gf2Poly_eq_zero_iff.1 hb)
  rw [← gf2Poly_clmul, natDegree_gf2Poly, natDegree_gf2Poly, natDegree_gf2Poly] at hdeg
  have hab : clmul a b ≠ 0 := fun h => (clmul_eq_zero_iff.1 h).elim ha hb
  rw [Ne, ← bitLen_eq_zero_iff] at ha hb hab
  omega

theorem clmul_lt {a b m n : Nat} (ha : a < 2 ^ m) (hb : b < 2 ^ n) : clmul a b < 2 ^ (m + n) := by
  by_cases h0 : clmul a b = 0
  · exact h0 ▸ Nat.two_pow_pos _
  · rw [clmul_eq_zero_iff, not_or] at h0
    have hlen := bitLen_clmul h0.1 h0.2
    rw [← bitLen_le_iff] at ha hb ⊢
    omega

/-! ### Divisibility and division -/

theorem polyDvd_iff {d a : Nat} : PolyDvd d a ↔ gf2Poly d ∣ gf2Poly a := by
  refine ⟨fun ⟨q, hq⟩ => ⟨gf2Poly q, ?_⟩, fun ⟨p, hp⟩ => ?_⟩
  · rw [← hq, gf2Poly_clmul, mul_comm]
  · obtain ⟨q, rfl⟩ := gf2Poly_surjective p
    exact ⟨q, gf2Poly_injective (by rw [gf2Poly_clmul, hp, mul_comm])⟩

/-- A bit above all the others may be set or flipped. -/
theorem or_two_pow_eq_xor {q k : Nat} (hq : q < 2 ^ k) : q ||| 2 ^ k = q ^^^ 2 ^ k := by
  refine Nat.eq_of_testBit_eq fun i => ?_
  rw [Nat.testBit_or, Nat.testBit_xor, Nat.testBit_two_pow]
  by_cases h : k = i
  · subst h
    simp [Nat.testBit_lt_two_pow hq]
  · simp [h]

/-- A quotient bit above all the others is one more term. -/
theorem gf2Poly_or_bit {q k : Nat} (hq : q < 2 ^ k) : gf2Poly (q ||| 1 <<< k) = gf2Poly q + X ^ k := by
  rw [Nat.one_shiftLeft, or_two_pow_eq_xor hq, gf2Poly_xor, gf2Poly_two_pow]

theorem polyDivFrom_quot_lt (b db k r : Nat) : (polyDivFrom b db k r).1 < 2 ^ k := by
  induction k generalizing r with
  | zero => exact Nat.one_pos
  | succ k ih =>
    have hmono : (2 : Nat) ^ k < 2 ^ (k + 1) := Nat.pow_lt_pow_right (by decide) (Nat.lt_succ_self k)
    simp only [polyDivFrom]
    split
    · exact Nat.or_lt_two_pow (Nat.lt_trans (ih _) hmono) (by rwa [Nat.one_shiftLeft])
    · exact Nat.lt_trans (ih r) hmono

theorem polyDivFrom_eq (b db k r : Nat) :
    gf2Poly r = gf2Poly (polyDivFrom b db k r).1 * gf2Poly b + gf2Poly (polyDivFrom b db k r).2 := by
  induction k generalizing r with
  | zero => simp [polyDivFrom]
  | succ k ih =>
    simp only [polyDivFrom]
    split
    · have hround := ih (r ^^^ b <<< k)
      rw [gf2Poly_xor, gf2Poly_shiftLeft] at hround
      rw [gf2Poly_or_bit (polyDivFrom_quot_lt b db k _)]
      linear_combination hround - CharTwo.add_self_eq_zero (gf2Poly b * X ^ k)
    · exact ih r

/-- The division identity `a = q · b + r` (R9). -/
theorem polyDiv_mul_add_polyMod (a b : Nat) :
    gf2Poly a = gf2Poly (polyDiv a b) * gf2Poly b + gf2Poly (polyMod a b) := by
  unfold polyDiv polyMod polyDivMod
  split
  · simp
  · exact polyDivFrom_eq b _ _ a

/-- The division identity bit by bit. -/
theorem testBit_polyDiv_polyMod (a b k : Nat) :
    a.testBit k = (productBit (polyDiv a b) b k != (polyMod a b).testBit k) := by
  have hid : a = clmul (polyDiv a b) b ^^^ polyMod a b :=
    gf2Poly_injective (by rw [gf2Poly_xor, gf2Poly_clmul, ← polyDiv_mul_add_polyMod])
  rw [Bool.bne_eq_xor, ← testBit_clmul, ← Nat.testBit_xor, ← hid]

theorem bitLen_polyMod_lt {b : Nat} (hb : b ≠ 0) (a : Nat) : bitLen (polyMod a b) < bitLen b := by
  have hpos : bitLen b ≠ 0 := fun h => hb (bitLen_eq_zero_iff.1 h)
  have hlt := polyMod_lt (by omega : bitLen b = bitLen b - 1 + 1) a
  have := bitLen_le_iff.2 hlt
  omega

/-- A remainder is congruent to its dividend. -/
theorem polyDvd_xor_polyMod (a b : Nat) : PolyDvd b (a ^^^ polyMod a b) := by
  refine polyDvd_iff.2 ⟨gf2Poly (polyDiv a b), ?_⟩
  rw [gf2Poly_xor]
  linear_combination polyDiv_mul_add_polyMod a b + CharTwo.add_self_eq_zero (gf2Poly (polyMod a b))

/-! ### Greatest common divisors -/

theorem dvd_polyMod_iff {a b : Nat} {d : (ZMod 2)[X]} (hb : d ∣ gf2Poly b) :
    d ∣ gf2Poly (polyMod a b) ↔ d ∣ gf2Poly a := by
  rw [polyDiv_mul_add_polyMod a b]
  exact (dvd_add_right (hb.mul_left _)).symm

/-- Each round of Euclid's loop keeps the common divisors. -/
theorem dvd_polyGcdLoop_iff {k a b : Nat} (hk : bitLen b < k) (d : (ZMod 2)[X]) :
    d ∣ gf2Poly (polyGcdLoop k a b) ↔ d ∣ gf2Poly a ∧ d ∣ gf2Poly b := by
  induction k generalizing a b with
  | zero => omega
  | succ k ih =>
    rw [polyGcdLoop]
    split
    · rename_i hb
      simp [hb]
    · rename_i hb
      have hlt := bitLen_polyMod_lt hb a
      rw [ih (by omega)]
      exact ⟨fun ⟨hdb, hdr⟩ => ⟨(dvd_polyMod_iff hdb).1 hdr, hdb⟩,
        fun ⟨hda, hdb⟩ => ⟨hdb, (dvd_polyMod_iff hdb).2 hda⟩⟩

/-- The divisors of `gcd(a, b)` are the common divisors of `a` and `b` (R9). -/
theorem dvd_polyGcd_iff {a b : Nat} (d : (ZMod 2)[X]) : d ∣ gf2Poly (polyGcd a b) ↔ d ∣ gf2Poly a ∧ d ∣ gf2Poly b :=
  dvd_polyGcdLoop_iff (Nat.lt_succ_self _) d

theorem polyGcd_ne_zero {a b : Nat} (h : a ≠ 0 ∨ b ≠ 0) : polyGcd a b ≠ 0 := by
  intro h0
  have hdvd := (dvd_polyGcd_iff (a := a) (b := b) 0).1 (by simp [h0])
  simp only [zero_dvd_iff, gf2Poly_eq_zero_iff] at hdvd
  omega

/-- `gcd(a, b) = 1` says that `a` and `b` are coprime. -/
theorem polyGcd_eq_one_iff {a b : Nat} : polyGcd a b = 1 ↔ IsCoprime (gf2Poly a) (gf2Poly b) := by
  rw [← isUnit_gf2Poly_iff, ← isRelPrime_iff_isCoprime]
  refine ⟨fun h d hda hdb => isUnit_of_dvd_unit ((dvd_polyGcd_iff d).2 ⟨hda, hdb⟩) h, fun h => ?_⟩
  obtain ⟨ha, hb⟩ := (dvd_polyGcd_iff (a := a) (b := b) _).1 dvd_rfl
  exact h ha hb

end Gf2Polynomials

end Sys2Proof.Machine

/-! ## The irreducibility test (41 R165)

The test passes when `f` is coprime to `x^(2^i) − x` for every `i` up to half its degree: the roots of that polynomial are the
elements of GF(2^i), so a factor of degree `i` would divide it. -/

namespace Sys2Proof.Machine

section Irreducibility

open Polynomial

/-- The elements of GF(2^i) are the roots of `x^(2^i) − x`, so it is the product of the irreducible polynomials whose degree
divides `i`. -/
theorem natDegree_dvd_iff_dvd_frobenius {P : (ZMod 2)[X]} (hP : Irreducible P) (i : Nat) :
    P.natDegree ∣ i ↔ P ∣ X ^ 2 ^ i - X := by
  have h := hP.natDegree_dvd_iff_dvd_X_pow_card_pow_sub_X (n := i)
  rwa [Nat.card_zmod] at h

/-- Divisibility and degree settle irreducibility: a proper factor has an irreducible part of degree at most half. -/
theorem irreducible_iff_coprime_frobenius {F : (ZMod 2)[X]} (h0 : F ≠ 0) (hu : ¬ IsUnit F) :
    Irreducible F ↔ ∀ i, 0 < i → i ≤ F.natDegree / 2 → IsCoprime F (X ^ 2 ^ i - X) := by
  refine ⟨fun hF i hi hle => hF.coprime_iff_not_dvd.2 fun hdvd => ?_, fun h => ?_⟩
  · have hdeg := Nat.le_of_dvd hi ((natDegree_dvd_iff_dvd_frobenius hF i).2 hdvd)
    omega
  · refine (irreducible_iff_lt_natDegree_lt h0 hu).2 fun q hq hdeg hdvd => ?_
    obtain ⟨hpos, hle⟩ := Finset.mem_Ioc.1 hdeg
    obtain ⟨P, hP, hPq⟩ := exists_irreducible_of_natDegree_pos hpos
    have hPle : P.natDegree ≤ q.natDegree := natDegree_le_of_dvd hPq hq.ne_zero
    have hfrob := (natDegree_dvd_iff_dvd_frobenius hP P.natDegree).1 dvd_rfl
    exact hP.not_isUnit ((h _ hP.natDegree_pos (hPle.trans hle)).isUnit_of_dvd' (hPq.trans hdvd) hfrob)

/-! ### The loop -/

/-- A round passes when `f` is coprime to the difference; a zero difference shares all of `f`. -/
theorem irreducibleLoop_succ_iff {f : Nat} (hf : 2 ≤ f) (k u : Nat) :
    irreducibleLoop f (k + 1) u = true
      ↔ IsCoprime (gf2Poly f) (gf2Poly (polyMod (clmul u u) f) + X)
        ∧ irreducibleLoop f k (polyMod (clmul u u) f) = true := by
  rw [← gf2Poly_two, ← gf2Poly_xor, ← polyGcd_eq_one_iff]
  simp only [irreducibleLoop]
  split
  · rename_i ht
    rw [ht, polyGcd_eq_one_iff, gf2Poly_zero, isCoprime_zero_right, isUnit_gf2Poly_iff]
    exact iff_of_false Bool.false_ne_true fun h => by omega
  · split
    · rename_i hg
      exact iff_of_false Bool.false_ne_true fun h => hg h.1
    · rename_i hg
      exact (and_iff_right (not_not.1 hg)).symm

/-- Squaring modulo `f` goes from `x^(2^j)` to `x^(2^(j+1))`. -/
theorem dvd_polyMod_sq_sub {f u j : Nat} (hu : gf2Poly f ∣ gf2Poly u - X ^ 2 ^ j) :
    gf2Poly f ∣ gf2Poly (polyMod (clmul u u) f) - X ^ 2 ^ (j + 1) := by
  obtain ⟨c, hc⟩ := hu
  have hq := polyDiv_mul_add_polyMod (clmul u u) f
  rw [gf2Poly_clmul] at hq
  refine ⟨c * (gf2Poly u + X ^ 2 ^ j) - gf2Poly (polyDiv (clmul u u) f), ?_⟩
  rw [pow_succ 2 j, pow_mul]
  linear_combination (gf2Poly u + X ^ 2 ^ j) * hc - hq

/-- The difference a round forms may be taken from any polynomial congruent modulo `F`. -/
theorem isCoprime_add_X_iff {F u a : (ZMod 2)[X]} (h : F ∣ u - a) : IsCoprime F (u + X) ↔ IsCoprime F (a - X) := by
  obtain ⟨c, hc⟩ := h
  have hsum : u + X = a - X + F * c := by linear_combination hc + CharTwo.add_self_eq_zero (X : (ZMod 2)[X])
  rw [hsum, IsCoprime.add_mul_left_right_iff]

/-- From `x^(2^j)` on, `k` rounds test the next `k` powers. -/
theorem irreducibleLoop_iff {f : Nat} (hf : 2 ≤ f) {k u j : Nat} (hu : gf2Poly f ∣ gf2Poly u - X ^ 2 ^ j) :
    irreducibleLoop f k u = true ↔ ∀ i, j < i → i ≤ j + k → IsCoprime (gf2Poly f) (X ^ 2 ^ i - X) := by
  induction k generalizing u j with
  | zero => exact iff_of_true rfl fun i hlt hle => by omega
  | succ k ih =>
    have hu' := dvd_polyMod_sq_sub hu
    rw [irreducibleLoop_succ_iff hf, isCoprime_add_X_iff hu', ih hu']
    refine ⟨fun ⟨hnext, hrest⟩ i hlt hle => ?_,
      fun h => ⟨h _ (by omega) (by omega), fun i hlt hle => h i (by omega) (by omega)⟩⟩
    rcases Nat.eq_or_lt_of_le (Nat.succ_le_of_lt hlt) with rfl | hlt'
    · exact hnext
    · exact hrest i hlt' (by omega)

theorem irreducible_eq_loop {f : Nat} (hf : 2 ≤ f) (c : Bool) :
    irreducible c f = irreducibleLoop f ((gf2Poly f).natDegree / 2) 2 := by
  have hlen : bitLen f ≠ 1 := fun h => by
    have := bitLen_le_iff.1 h.le
    omega
  rw [irreducible, if_neg (by omega), if_neg hlen, natDegree_gf2Poly]

/-! ### Numbers without proper factors -/

/-- A factor of a product by something other than 0 and 1 is smaller than the product. -/
theorem lt_clmul {a b : Nat} (ha : a ≠ 0) (hb : 2 ≤ b) : a < clmul a b ∧ a < clmul b a := by
  have hlen : ¬ bitLen b ≤ 1 := fun h => by
    have := bitLen_le_iff.1 h
    omega
  have h1 := bitLen_clmul ha (by omega : b ≠ 0)
  have h2 := bitLen_clmul (by omega : b ≠ 0) ha
  exact ⟨lt_of_bitLen_lt (by omega), lt_of_bitLen_lt (by omega)⟩

/-- Irreducible numbers are the irreducible elements of `(ZMod 2)[X]` (42 R200). -/
theorem polyIrreducible_iff {p : Nat} : PolyIrreducible p ↔ Irreducible (gf2Poly p) := by
  constructor
  · rintro ⟨hp, hfac⟩
    refine ⟨fun hu => ?_, fun A B hAB => ?_⟩
    · have := isUnit_gf2Poly_iff.1 hu
      omega
    · obtain ⟨a, rfl⟩ := gf2Poly_surjective A
      obtain ⟨b, rfl⟩ := gf2Poly_surjective B
      rw [← gf2Poly_clmul] at hAB
      obtain rfl := gf2Poly_injective hAB
      have hne : clmul a b ≠ 0 := by omega
      obtain ⟨ha, hb⟩ := not_or.1 (mt clmul_eq_zero_iff.2 hne)
      rw [isUnit_gf2Poly_iff, isUnit_gf2Poly_iff]
      by_contra hunits
      exact hfac a (lt_clmul ha (by omega)).1 b (lt_clmul hb (by omega)).2 rfl
  · intro hp
    have h0 := mt gf2Poly_eq_zero_iff.2 hp.ne_zero
    have h1 := mt isUnit_gf2Poly_iff.2 hp.not_isUnit
    refine ⟨by omega, fun a ha b hb hab => ?_⟩
    have hprod := gf2Poly_clmul a b
    rw [hab] at hprod
    rcases hp.isUnit_or_isUnit hprod with hu | hu
    · rw [isUnit_gf2Poly_iff.1 hu, gf2Poly_one, one_mul] at hprod
      exact hb.ne' (gf2Poly_injective hprod)
    · rw [isUnit_gf2Poly_iff.1 hu, gf2Poly_one, mul_one] at hprod
      exact ha.ne' (gf2Poly_injective hprod)

end Irreducibility

/-- Settles O27: the rounds test coprimality with `x^(2^i) − x` up to half the degree, which is irreducibility in
`(ZMod 2)[X]`. -/
theorem irreducibilityTestIsExact : Obligations.IrreducibilityTestIsExact := by
  unfold Obligations.IrreducibilityTestIsExact
  intro c f hf
  have hu : ¬ IsUnit (gf2Poly f) := fun h => by
    have := isUnit_gf2Poly_iff.1 h
    omega
  have h0 : gf2Poly f ≠ 0 := fun h => by
    have := gf2Poly_eq_zero_iff.1 h
    omega
  rw [irreducible_eq_loop hf, polyIrreducible_iff, irreducible_iff_coprime_frobenius h0 hu,
    irreducibleLoop_iff (j := 0) hf (by simp), Nat.zero_add]

end Sys2Proof.Machine

/-! ## Commands that store binary polynomials or write a scalar (20_memory R83, R84, R93, R94)

Each shape of a command's last part, one store with its CAPACITY check, two stores apart, a scalar, is followed once from `exec`
to what its statement says. -/

namespace Sys2Proof.Machine

section PolyStores

variable {i : Instr} {s t : State} {d e : DReg} {v len : Nat}

/-! ### Checks -/

theorem checkPoly_eq (s : State) (d : DReg) : s.checkPoly d = check (s.PolySource d) .bounds :=
  checkSrc_eq s d (wordsFor (s.len d))

/-- The check of a polynomial source, as one condition. -/
theorem Outcome_checkPoly {r : Unit → Except ErrCode State} {rest : List (Prop × ErrCode)} {last : Prop}
    (h : exec i s = finish s (s.checkPoly d >>= r))
    (k : s.PolySource d → exec i s = finish s (r ()) → Outcome i s rest last) :
    Outcome i s ((s.PolySource d, .bounds) :: rest) last := by
  rw [checkPoly_eq] at h
  exact Outcome_check h k

/-- A check known to pass leaves the rest of the command. -/
theorem exec_of_check {c : Prop} [Decidable c] {err : ErrCode} {r : Unit → Except ErrCode State}
    (h : exec i s = finish s (check c err >>= r)) (hc : c) : exec i s = finish s (r ()) := by
  rwa [check_bind, if_pos hc] at h

/-- A check known to fail ends the command. -/
theorem endsWith_of_check {c : Prop} [Decidable c] {err : ErrCode} {r : Unit → Except ErrCode State}
    (h : exec i s = finish s (check c err >>= r)) (hc : ¬ c) : EndsWith i s err := by
  rwa [check_bind, if_neg hc] at h

/-- A result inside OM has a length LEN can hold (00_scope R6). -/
theorem len_lt_of_fits (hp : s.params.legal = true) (hin : s.inOm d) (hfit : wordsFor len ≤ s.cap d) : len < 2 ^ 32 := by
  simp only [Params.legal, Bool.and_eq_true, decide_eq_true_eq] at hp
  have hom : s.base d + s.cap d ≤ s.params.omWords.toNat := hin
  have hbits := bits_le_words len
  omega

theorem poly_lt (s : State) (d : DReg) : s.poly d < 2 ^ s.len d := Nat.mod_lt _ (Nat.two_pow_pos _)

theorem poly_lt_of_le {n : Nat} (h : s.len d ≤ n) : s.poly d < 2 ^ n :=
  Nat.lt_of_lt_of_le (poly_lt s d) (Nat.pow_le_pow_right Nat.two_pos h)

/-! ### Results -/

/-- What `WritePoly` stored reads back. -/
theorem polyResult_putPoly (hv : v < 2 ^ len) (hlen : len < 2 ^ 32) : PolyResult s (s.putPoly d v len) d v len := by
  have hmod : v % 2 ^ len = v := Nat.mod_eq_of_lt hv
  have hD : (s.putPoly d v len).D d = { s.D d with len := BitVec.ofNat 32 len } := by rw [putPoly_D, if_pos rfl]
  refine ⟨(putPoly_poly s d v len hlen).trans hmod, (putPoly_readNat s d v len).trans hmod, ?_, hD⟩
  rw [State.len, hD]
  exact (BitVec.toNat_ofNat ..).trans (Nat.mod_eq_of_lt hlen)

/-- A result depends on its descriptor and its words alone. -/
theorem PolyResult.congr {u : State} (h : PolyResult s t d v len) (hD : u.D d = t.D d)
    (hw : ∀ k, k < wordsFor len → u.readWord (s.base d + k) = t.readWord (s.base d + k)) : PolyResult s u d v len := by
  obtain ⟨hpoly, hwords, hlen, hdesc⟩ := h
  have hbase : t.base d = s.base d := by rw [State.base, hdesc]; rfl
  have hnat : u.readNat (s.base d) (wordsFor len) = t.readNat (s.base d) (wordsFor len) := readNat_congr _ _ _ _ hw
  have hlen' : u.len d = len := (congrArg (fun D : Desc => D.len.toNat) hD).trans hlen
  have hbase' : u.base d = s.base d := (congrArg (fun D : Desc => D.base.toNat) hD).trans hbase
  refine ⟨?_, hnat.trans hwords, hlen', hD.trans hdesc⟩
  rw [State.poly, hlen, hbase] at hpoly
  rw [State.poly, hlen', hbase', hnat, hpoly]

/-- Completion keeps results. -/
theorem PolyResult.complete (h : PolyResult s t d v len) (j : Nat) : PolyResult s (t.complete j) d v len :=
  h.congr rfl fun _ _ => rfl

/-- Two ranges of at least a word each that do not meet are disjoint (20_memory R93). -/
theorem disjoint_of_not_rangesMeet {a m b n : Nat} (h : rangesMeet a m b n = false) (hm : m ≠ 0) (hn : n ≠ 0) :
    b + n ≤ a ∨ a + m ≤ b := by
  simp only [rangesMeet, ne_eq, hm, hn, not_false_eq_true, decide_true, Bool.true_and, Bool.and_eq_false_iff,
    decide_eq_false_iff_not] at h
  omega

/-- A second store at another descriptor and apart from the words of the first leaves the first result (20_memory R93). -/
theorem PolyResult.putPoly {w n : Nat} (h : PolyResult s t d v len) (hne : d ≠ e)
    (hap : t.base e + wordsFor n ≤ s.base d ∨ s.base d + wordsFor len ≤ t.base e) :
    PolyResult s (t.putPoly e w n) d v len := by
  refine h.congr ?_ fun k hk => ?_
  · rw [putPoly_D, if_neg hne]
  · refine readWord_writeWords_out t (t.base e) (s.base d + k) (wordsOfNat (w % 2 ^ n) (wordsFor n)) ?_
    rw [wordsOfNat_length]
    omega

/-! ### One store -/

theorem effect_putPoly (s : State) (d : DReg) (v len : Nat) :
    Effect s ((s.putPoly d v len).complete 0) 0 [] [d] [(s.base d, wordsFor len)] := by
  refine Effect_of rfl ⟨rfl, rfl, rfl, rfl, rfl, rfl⟩ (fun _ _ => rfl) (fun e he => ?_) (fun a ha => ?_) ⟨rfl, rfl, rfl⟩
    (fun _ => rfl)
  · rw [putPoly_D, if_neg (by simpa using he)]
  · exact putPoly_readByte s d v len a (ha _ (List.mem_singleton_self _))

theorem storesAt_putPoly (h : exec i s = finish s (.ok (s.putPoly d v len))) (hv : v < 2 ^ len) (hlen : len < 2 ^ 32) :
    StoresAt i s d (wordsFor len) (fun t => PolyResult s t d v len) :=
  Completes_of h ⟨(polyResult_putPoly hv hlen).complete 0, effect_putPoly s d v len, rfl, rfl, rfl, rfl⟩

/-- CAPACITY, or the result stored (R94). -/
theorem Outcome_storePoly (h : exec i s = finish s (s.storePoly d v len)) (hp : s.params.legal = true) (hin : s.inOm d)
    (hv : v < 2 ^ len) : Outcome i s [(wordsFor len ≤ s.cap d, .capacity)]
      (StoresAt i s d (wordsFor len) (fun t => PolyResult s t d v len)) :=
  Outcome_check h fun hfit h => storesAt_putPoly h hv (len_lt_of_fits hp hin hfit)

/-! ### Two stores -/

theorem effect_putPoly_pair (s : State) (hne : d ≠ e) (v len w n : Nat) :
    Effect s (((s.putPoly d v len).putPoly e w n).complete 0) 0 [] [d, e]
      [(s.base d, wordsFor len), (s.base e, wordsFor n)] := by
  have hbase : (s.putPoly d v len).base e = s.base e := by rw [State.base, putPoly_D, if_neg hne.symm]; rfl
  refine Effect_of (by simp) (by simp) (fun _ _ => by simp [State.S]) (fun c hc => ?_) (fun a ha => ?_) (by simp)
    (fun _ => by simp)
  · simp only [List.mem_cons, List.not_mem_nil, or_false, not_or] at hc
    obtain ⟨hcd, hce⟩ := hc
    rw [putPoly_D, if_neg hce, putPoly_D, if_neg hcd]
  · rw [putPoly_readByte, putPoly_readByte]
    · exact ha (s.base d, wordsFor len) List.mem_cons_self
    · rw [hbase]
      exact ha (s.base e, wordsFor n) (List.mem_cons_of_mem _ (List.mem_singleton_self _))

/-- Two results stored at different descriptors and in words apart both read back (20_memory R93). -/
theorem completes_putPoly_pair {w n : Nat} (h : exec i s = finish s (.ok ((s.putPoly d v len).putPoly e w n)))
    (hv : v < 2 ^ len) (hw : w < 2 ^ n) (hlen : len < 2 ^ 32) (hn : n < 2 ^ 32) (hpos : len ≠ 0 ∧ n ≠ 0)
    (hap : s.Apart d e (wordsFor len) (wordsFor n)) :
    Completes i s (fun t => PolyResult s t d v len ∧ PolyResult s t e w n
      ∧ Effect s t 0 [] [d, e] [(s.base d, wordsFor len), (s.base e, wordsFor n)] ∧ FieldsKept s t) := by
  obtain ⟨hne, hmeet⟩ := hap
  have hD : (s.putPoly d v len).D e = s.D e := by rw [putPoly_D, if_neg hne.symm]
  have hbase : (s.putPoly d v len).base e = s.base e := congrArg (fun D : Desc => D.base.toNat) hD
  have hdisj := disjoint_of_not_rangesMeet hmeet (by unfold wordsFor; omega) (by unfold wordsFor; omega)
  have hfirst : PolyResult s ((s.putPoly d v len).putPoly e w n) d v len :=
    (polyResult_putPoly hv hlen).putPoly hne (hbase ▸ hdisj)
  have hsecond : PolyResult s ((s.putPoly d v len).putPoly e w n) e w n := by
    have := polyResult_putPoly (s := s.putPoly d v len) (d := e) hw hn
    unfold PolyResult at this
    rwa [hbase, hD] at this
  exact Completes_of h
    ⟨hfirst.complete 0, hsecond.complete 0, effect_putPoly_pair s hne v len w n, by simp [FieldsKept]⟩

/-! ### A scalar -/

theorem writesScalar_setS {k : SReg} {x : Word} (h : exec i s = finish s (.ok (s.setS k x))) : WritesScalar i s k x := by
  refine Completes_of h ⟨State.S_setS_self s k x, ?_, rfl, rfl, rfl, rfl⟩
  exact Effect_of rfl ⟨rfl, rfl, rfl, rfl, rfl, rfl⟩ (fun l hl => State.S_setS_ne s k l x (by simpa using hl))
    (fun _ _ => rfl) (fun _ _ => rfl) ⟨rfl, rfl, rfl⟩ (fun _ => rfl)

end PolyStores

end Sys2Proof.Machine

/-! ## The binary-polynomial unit (41_binary_poly)

Each command is its checks in the order of R150, one operation tied above to the ring, and one store. -/

namespace Sys2Proof.Machine

section BinaryPolynomials

variable {i : Instr} {s : State}

/-! ### Products (R152, R153) -/

theorem bpProduct_outcome {dst a b : DReg} (h : exec i s = bpProduct dst a b s) (hp : s.params.legal = true) :
    Outcome i s
      [(s.PolySource a, .bounds), (s.PolySource b, .bounds), (s.inOm dst, .bounds),
       (wordsFor (2 * max (s.len a) (s.len b)) ≤ s.cap dst, .capacity)]
      (StoresAt i s dst (wordsFor (2 * max (s.len a) (s.len b)))
        (fun t => PolyResult s t dst (clmul (s.poly a) (s.poly b)) (2 * max (s.len a) (s.len b)))) := by
  refine Outcome_checkPoly h fun _ h => Outcome_checkPoly h fun _ h => Outcome_check h fun hin h =>
    Outcome_storePoly h hp hin ?_
  rw [Nat.two_mul]
  exact clmul_lt (poly_lt_of_le (le_max_left _ _)) (poly_lt_of_le (le_max_right _ _))

/-! ### Quotients, remainders and gcds (R155 to R157) -/

theorem lt_two_pow_reducedLen (v : Nat) : v < 2 ^ reducedLen v := bitLen_le_iff.1 (le_max_left _ _)

theorem reducedLen_ne_zero (v : Nat) : reducedLen v ≠ 0 := by
  unfold reducedLen
  omega

theorem reducedLen_of_ne_zero {v : Nat} (hv : v ≠ 0) : reducedLen v = bitLen v := by
  have := mt bitLen_eq_zero_iff.1 hv
  unfold reducedLen
  omega

/-! ### Reduction (R158, R160) -/

theorem two_pow_xor_of_lt {n x : Nat} (h : x < 2 ^ n) : 2 ^ n ^^^ x = 2 ^ n + x := by
  have hor := Nat.two_pow_add_eq_or_of_lt h 1
  rw [Nat.mul_one] at hor
  rw [hor, Nat.or_comm, or_two_pow_eq_xor h, Nat.xor_comm]

theorem two_pow_add_lt {k n x : Nat} (hx : x < 2 ^ k) (hk : k < n) : 2 ^ k + x < 2 ^ n := by
  have hmono : (2 : Nat) ^ (k + 1) ≤ 2 ^ n := Nat.pow_le_pow_right Nat.two_pos hk
  rw [Nat.pow_succ] at hmono
  omega

theorem bitLen_two_pow_add {n x : Nat} (hx : x < 2 ^ n) : bitLen (2 ^ n + x) = n + 1 := by
  refine bitLen_eq_succ ?_ (two_pow_add_lt hx (Nat.lt_succ_self n))
  rw [Nat.testBit_two_pow_add_eq, Nat.testBit_lt_two_pow hx]
  rfl

/-- Exponents in order make `x^n + x^k + 1` of degree `n` (R158). -/
theorem trinomial_eq {n k : Nat} (hk : 1 ≤ k ∧ k < n) :
    trinomial n k = 2 ^ n + 2 ^ k + 1 ∧ bitLen (trinomial n k) = n + 1 := by
  obtain ⟨h1, hn⟩ := hk
  have hone : 1 < 2 ^ k := Nat.one_lt_two_pow (by omega)
  have hlow := two_pow_add_lt hone hn
  have heq : trinomial n k = 2 ^ n + (2 ^ k + 1) := by
    rw [trinomial, Nat.xor_assoc, two_pow_xor_of_lt hone, two_pow_xor_of_lt hlow]
  exact ⟨heq, heq ▸ bitLen_two_pow_add hlow⟩

/-- Exponents in order make `x^n + x^k3 + x^k2 + x^k1 + 1` of degree `n` (R160). -/
theorem pentanomial_eq {n k1 k2 k3 : Nat} (hk : 1 ≤ k1 ∧ k1 < k2 ∧ k2 < k3 ∧ k3 < n) :
    pentanomial n k1 k2 k3 = 2 ^ n + 2 ^ k3 + 2 ^ k2 + 2 ^ k1 + 1 ∧ bitLen (pentanomial n k1 k2 k3) = n + 1 := by
  obtain ⟨h1, h2, h3, hn⟩ := hk
  have hone : 1 < 2 ^ k1 := Nat.one_lt_two_pow (by omega)
  have hlow1 := two_pow_add_lt hone h2
  have hlow2 := two_pow_add_lt hlow1 h3
  have hlow3 := two_pow_add_lt hlow2 hn
  have heq : pentanomial n k1 k2 k3 = 2 ^ n + (2 ^ k3 + (2 ^ k2 + (2 ^ k1 + 1))) := by
    rw [pentanomial, Nat.xor_assoc, Nat.xor_assoc, Nat.xor_assoc, two_pow_xor_of_lt hone, two_pow_xor_of_lt hlow1,
      two_pow_xor_of_lt hlow2, two_pow_xor_of_lt hlow3]
  refine ⟨?_, heq ▸ bitLen_two_pow_add hlow3⟩
  rw [heq]
  omega

/-- The remainder modulo a polynomial of degree `n` is stored in `n` bits. -/
theorem reduction_outcome {dst a : DReg} {f n : Nat}
    (h : exec i s = finish s (s.storePoly dst (polyMod (s.poly a) f) n))
    (hf : bitLen f = n + 1) (hp : s.params.legal = true) (hin : s.inOm dst) :
    Outcome i s [(wordsFor n ≤ s.cap dst, .capacity)]
      (∃ r, r < 2 ^ n ∧ PolyDvd f (s.poly a ^^^ r)
        ∧ StoresAt i s dst (wordsFor n) (fun t => PolyResult s t dst r n)) :=
  Outcome_check h fun hfit h => ⟨_, polyMod_lt hf _, polyDvd_xor_polyMod _ f,
    storesAt_putPoly h (polyMod_lt hf _) (len_lt_of_fits hp hin hfit)⟩

/-! ### Single bits (R159, R162 to R164) -/

/-- The degree as a scalar (R159). -/
theorem degreeWord_polyDeg (a : Nat) : degreeWord (polyDeg a) = if a = 0 then 0xFFFFFFFF else BitVec.ofNat 32 a.log2 := by
  unfold degreeWord polyDeg bitLen
  split
  · decide
  · rw [Nat.cast_succ, add_sub_cancel_right]
    exact BitVec.ofInt_natCast 32 _

theorem testBit_or_bit (v n k : Nat) : (v ||| 1 <<< n).testBit k = if k = n then true else v.testBit k := by
  rw [Nat.one_shiftLeft, Nat.testBit_or, Nat.testBit_two_pow]
  by_cases h : k = n
  · simp [h]
  · simp [h, Ne.symm h]

theorem testBit_xor_bit (v n k : Nat) : (v ^^^ 1 <<< n).testBit k = if k = n then !v.testBit k else v.testBit k := by
  rw [Nat.one_shiftLeft, Nat.testBit_xor, Nat.testBit_two_pow]
  by_cases h : k = n
  · simp [h]
  · simp [h, Ne.symm h]

theorem testBit_clear_bit (v n k : Nat) :
    (if v.testBit n then v ^^^ 1 <<< n else v).testBit k = if k = n then false else v.testBit k := by
  by_cases h : k = n
  · subst h
    cases hv : v.testBit k <;> simp [hv]
  · rw [if_neg h]
    split
    · rw [testBit_xor_bit, if_neg h]
    · rfl

/-- A bit command whose operation changes bit `n` alone: an index below LEN leaves the length enough (R162). -/
theorem bpBit_outcome {g : Nat → Nat → Nat} {f : Bool → Bool} {p : DReg} {index : SReg} (h : exec i s = bpBit g p index s)
    (hg : ∀ v n k, (g v n).testBit k = if k = n then f (v.testBit k) else v.testBit k) (hp : s.params.legal = true) :
    Outcome i s [(s.PolySource p, .bounds), ((s.S index).toNat < s.len p, .index)]
      (∃ v, (∀ k, v.testBit k = if k = (s.S index).toNat then f ((s.poly p).testBit k) else (s.poly p).testBit k)
        ∧ StoresAt i s p (wordsFor (s.len p)) (fun t => PolyResult s t p v (s.len p))) := by
  refine Outcome_checkPoly h fun ⟨hin, hfit⟩ h => Outcome_check (exec_of_check h hin) fun hlt h => ⟨_, hg _ _, ?_⟩
  refine storesAt_putPoly (exec_of_check h hfit) (Nat.lt_pow_two_of_testBit _ fun k hk => ?_) (len_lt_of_fits hp hin hfit)
  rw [hg, if_neg (by omega)]
  exact Nat.testBit_lt_two_pow (poly_lt_of_le hk)

end BinaryPolynomials

/-! ### The statements -/

/-- Settles O20: the checks in order, then one store of the exclusive or. -/
theorem bpAddIsExclusiveOr : Obligations.BpAddIsExclusiveOr := by
  unfold Obligations.BpAddIsExclusiveOr
  intro s dst a b hp
  exact Outcome_checkPoly rfl fun _ h => Outcome_checkPoly h fun _ h => Outcome_check h fun hin h =>
    Outcome_storePoly h hp hin (Nat.xor_lt_two_pow (poly_lt_of_le (le_max_left _ _)) (poly_lt_of_le (le_max_right _ _)))

/-- Settles O21: both opcodes run the same product, and the bits of a carry-less product are parities of pairs. -/
theorem bpMulcAndBpMulkStoreTheProduct : Obligations.BpMulcAndBpMulkStoreTheProduct := by
  unfold Obligations.BpMulcAndBpMulkStoreTheProduct
  intro s dst a b i hi hp
  refine ⟨clmul (s.poly a) (s.poly b), testBit_clmul _ _, bpProduct_outcome ?_ hp⟩
  rcases hi with rfl | rfl <;> rfl

/-- Settles O22: the spread bits are the square in `(ZMod 2)[X]`, so they have the bits and the length of a product. -/
theorem bpSqrSpreadsTheBits : Obligations.BpSqrSpreadsTheBits := by
  unfold Obligations.BpSqrSpreadsTheBits
  intro s dst a alg hp
  refine ⟨spreadBits (s.poly a), testBit_spreadBits _, fun k => ?_, ?_⟩
  · rw [spreadBits_eq_clmul, testBit_clmul]
  · refine Outcome_checkPoly rfl fun _ h => Outcome_check h fun hin h => Outcome_storePoly h hp hin ?_
    rw [spreadBits_eq_clmul, Nat.two_mul]
    exact clmul_lt (poly_lt s a) (poly_lt s a)

/-- Settles O23, by the division identity and the degree bound of the model's division; DIV_ZERO ends both commands where they
would divide by 0. -/
theorem bpDivAndBpRemDivideExactly : Obligations.BpDivAndBpRemDivideExactly := by
  unfold Obligations.BpDivAndBpRemDivideExactly
  intro s quot a b rem hp
  refine ⟨fun hb => ⟨polyDiv (s.poly a) (s.poly b), polyMod (s.poly a) (s.poly b), testBit_polyDiv_polyMod _ _,
    bitLen_polyMod_lt hb _, ?_, ?_⟩, fun hb => ⟨?_, ?_⟩⟩
  · exact Outcome_checkPoly rfl fun _ h => Outcome_checkPoly h fun _ h => Outcome_check h fun hinQ h =>
      Outcome_check h fun hinR h => Outcome_check (exec_of_check h hb) fun hq h => Outcome_check h fun hr h =>
      Outcome_check h fun hap h => completes_putPoly_pair h (lt_two_pow_reducedLen _) (lt_two_pow_reducedLen _)
        (len_lt_of_fits hp hinQ hq) (len_lt_of_fits hp hinR hr) ⟨reducedLen_ne_zero _, reducedLen_ne_zero _⟩ hap
  · exact Outcome_checkPoly rfl fun _ h => Outcome_checkPoly h fun _ h => Outcome_check h fun hin h =>
      Outcome_storePoly (exec_of_check h hb) hp hin (lt_two_pow_reducedLen _)
  · exact Outcome_checkPoly rfl fun _ h => Outcome_checkPoly h fun _ h => Outcome_check h fun _ h => Outcome_check h fun _ h =>
      endsWith_of_check h (not_not.2 hb)
  · exact Outcome_checkPoly rfl fun _ h => Outcome_checkPoly h fun _ h => Outcome_check h fun _ h =>
      endsWith_of_check h (not_not.2 hb)

/-- Settles O24: Euclid's loop keeps the common divisors. -/
theorem bpGcdIsTheGreatestCommonDivisor : Obligations.BpGcdIsTheGreatestCommonDivisor := by
  unfold Obligations.BpGcdIsTheGreatestCommonDivisor
  intro s dst a b hp
  refine Outcome_checkPoly rfl fun _ h => Outcome_checkPoly h fun _ h => Outcome_check h fun hin h =>
    Outcome_check h fun hne h => ?_
  have hg := polyGcd_ne_zero hne
  obtain ⟨hga, hgb⟩ := (dvd_polyGcd_iff (a := s.poly a) (b := s.poly b) _).1 dvd_rfl
  refine ⟨polyGcd (s.poly a) (s.poly b), hg, polyDvd_iff.2 hga, polyDvd_iff.2 hgb, fun d hda hdb => ?_, ?_⟩
  · exact polyDvd_iff.2 ((dvd_polyGcd_iff _).2 ⟨polyDvd_iff.1 hda, polyDvd_iff.1 hdb⟩)
  · rw [← reducedLen_of_ne_zero hg]
    exact Outcome_storePoly h hp hin (lt_two_pow_reducedLen _)

/-- Settles O25: the exponent checks make the modulus a polynomial of degree `n`, and the remainder is congruent to `A`. -/
theorem bpRedtAndBpRedpReduce : Obligations.BpRedtAndBpRedpReduce := by
  unfold Obligations.BpRedtAndBpRedpReduce
  intro s dst a base hp
  constructor
  · refine Outcome_check rfl fun _ h => Outcome_checkPoly h fun _ h => Outcome_check h fun hin h =>
      Outcome_check h fun hk h => ?_
    obtain ⟨heq, hlen⟩ := trinomial_eq hk
    rw [← heq]
    exact reduction_outcome h hlen hp hin
  · refine Outcome_check rfl fun _ h => Outcome_checkPoly h fun _ h => Outcome_check h fun hin h =>
      Outcome_check h fun hk h => ?_
    obtain ⟨heq, hlen⟩ := pentanomial_eq hk
    rw [← heq]
    exact reduction_outcome h hlen hp hin

/-- Settles O26: one source check, then a scalar; the test's values on the constants and on degree 1 are computed. -/
theorem bpDegBgetAndIrrWriteTheirScalar : Obligations.BpDegBgetAndIrrWriteTheirScalar := by
  unfold Obligations.BpDegBgetAndIrrWriteTheirScalar
  intro s dst index a
  refine ⟨Outcome_checkPoly rfl fun _ h => ?_, Outcome_checkPoly rfl fun _ h => writesScalar_setS h,
    Outcome_checkPoly rfl fun _ h => writesScalar_setS h, rfl, rfl, rfl, rfl⟩
  rw [← degreeWord_polyDeg]
  exact writesScalar_setS h

/-- Settles O28: each operation changes the bit at the index and no other. -/
theorem bpBitCommandsChangeOneBit : Obligations.BpBitCommandsChangeOneBit := by
  unfold Obligations.BpBitCommandsChangeOneBit
  intro s p index i f hi hp
  obtain ⟨rfl, rfl⟩ | ⟨rfl, rfl⟩ | ⟨rfl, rfl⟩ := hi
  · exact bpBit_outcome (g := fun v n => v ||| 1 <<< n) (f := fun _ => true) rfl testBit_or_bit hp
  · exact bpBit_outcome (g := fun v n => if v.testBit n then v ^^^ 1 <<< n else v) (f := fun _ => false) rfl
      testBit_clear_bit hp
  · exact bpBit_outcome (g := fun v n => v ^^^ 1 <<< n) (f := fun x => !x) rfl testBit_xor_bit hp

end Sys2Proof.Machine

/-! ## Arithmetic modulo a polynomial over GF(2) (42 R200, R204 to R208)

The numbers below `2^n` stand for the classes of `(ZMod 2)[X]` modulo a polynomial `f` of degree `n`. The model's products
and powers are those of the classes, and modulo an irreducible polynomial the classes are the field of `2^n` elements. -/

namespace Sys2Proof.Machine

section Residues

open Polynomial

variable {f n a b : Nat}

/-! ### Classes -/

/-- The class of the number `a` in `(ZMod 2)[X] / (f)`. -/
noncomputable def residue (f a : Nat) : AdjoinRoot (gf2Poly f) := AdjoinRoot.mk (gf2Poly f) (gf2Poly a)

theorem residue_eq_iff : residue f a = residue f b ↔ PolyDvd f (a ^^^ b) := by
  rw [residue, residue, AdjoinRoot.mk_eq_mk, CharTwo.sub_eq_add, ← gf2Poly_xor, polyDvd_iff]

@[simp] theorem residue_zero (f : Nat) : residue f 0 = 0 := by
  rw [residue, gf2Poly_zero, map_zero]

@[simp] theorem residue_one (f : Nat) : residue f 1 = 1 := by
  rw [residue, gf2Poly_one, map_one]

@[simp] theorem residue_clmul (f a b : Nat) : residue f (clmul a b) = residue f a * residue f b := by
  rw [residue, gf2Poly_clmul, map_mul]
  rfl

@[simp] theorem residue_polyMod (f a : Nat) : residue f (polyMod a f) = residue f a :=
  (residue_eq_iff.2 (polyDvd_xor_polyMod a f)).symm

/-- Numbers below `2^n` stand for different classes. -/
theorem eq_of_residue_eq (hf : bitLen f = n + 1) (ha : a < 2 ^ n) (hb : b < 2 ^ n) (h : residue f a = residue f b) :
    a = b := by
  have hf0 : gf2Poly f ≠ 0 := by
    rw [Ne, gf2Poly_eq_zero_iff, ← bitLen_eq_zero_iff]
    omega
  have hdeg : (gf2Poly (a ^^^ b)).degree < (gf2Poly f).degree := by
    rw [degree_eq_natDegree hf0, natDegree_gf2Poly, hf]
    exact degree_gf2Poly_lt_iff.2 (Nat.xor_lt_two_pow ha hb)
  have hzero := eq_zero_of_dvd_of_degree_lt (polyDvd_iff.1 (residue_eq_iff.1 h)) hdeg
  exact Nat.xor_eq_zero_iff.1 (gf2Poly_eq_zero_iff.1 hzero)

/-! ### Powers -/

section Powers

variable {M : Type*} [Monoid M] {φ : Nat → M} {mul : Nat → Nat → Nat}

/-- Square and multiply computes the power (42 R210). -/
theorem map_powerLoop {one : Nat} (hmul : ∀ a b, φ (mul a b) = φ a * φ b) (hone : φ one = 1) (x : Nat) {k e : Nat}
    (he : e < 2 ^ k) : φ (powerLoop mul one x k e) = φ x ^ e := by
  induction k generalizing e with
  | zero =>
    obtain rfl : e = 0 := by omega
    rw [powerLoop, hone, pow_zero]
  | succ k ih =>
    have hhalf := ih (e := e / 2) (by rw [Nat.pow_succ] at he; omega)
    simp only [powerLoop]
    split
    · rw [hmul, hmul, hhalf, ← pow_add, ← pow_succ]
      congr 1
      omega
    · rw [hmul, hhalf, ← pow_add]
      congr 1
      omega

theorem map_power {one : Nat} (hmul : ∀ a b, φ (mul a b) = φ a * φ b) (hone : φ one = 1) (x e : Nat) :
    φ (power mul one x e) = φ x ^ e :=
  map_powerLoop hmul hone x (lt_two_pow_bitLen e)

/-- A product of `k` factors `x` is the power. -/
theorem map_repeatTimes_mul (hmul : ∀ a b, φ (mul a b) = φ a * φ b) (x y k : Nat) :
    φ (repeatTimes (mul x) k y) = φ x ^ k * φ y := by
  induction k with
  | zero => rw [repeatTimes, pow_zero, one_mul]
  | succ k ih => rw [repeatTimes, hmul, ih, pow_succ', mul_assoc]

/-- Squaring `k` times is the power `2^k`. -/
theorem map_repeatTimes_sq (hmul : ∀ a b, φ (mul a b) = φ a * φ b) (x k : Nat) :
    φ (repeatTimes (fun z => mul z z) k x) = φ x ^ 2 ^ k := by
  induction k with
  | zero => rw [repeatTimes, pow_zero, pow_one]
  | succ k ih => rw [repeatTimes, hmul, ih, ← pow_add, ← Nat.two_mul, ← Nat.pow_succ']

end Powers

theorem repeatTimes_lt {g : Nat → Nat} {x : Nat} (hg : ∀ y, g y < 2 ^ n) (hx : x < 2 ^ n) (k : Nat) :
    repeatTimes g k x < 2 ^ n := by
  cases k with
  | zero => exact hx
  | succ k => exact hg _

/-! ### The field of `2^n` elements -/

/-- Modulo an irreducible polynomial of degree `n` there are `2^n` classes, so raising to the power `2^n` changes none. -/
theorem residue_pow_card (hf : bitLen f = n + 1) (hirr : PolyIrreducible f) (x : AdjoinRoot (gf2Poly f)) :
    x ^ 2 ^ n = x := by
  have hfact := Fact.mk (polyIrreducible_iff.1 hirr)
  have hfinite := (monic_gf2Poly (a := f) (by omega)).finite_adjoinRoot
  have hfin : Finite (AdjoinRoot (gf2Poly f)) := Module.finite_of_finite (ZMod 2)
  have hcard : Nat.card (AdjoinRoot (gf2Poly f)) = 2 ^ n := by
    rw [Module.natCard_eq_pow_finrank (K := ZMod 2), Nat.card_zmod,
      (AdjoinRoot.powerBasis hfact.out.ne_zero).finrank, AdjoinRoot.powerBasis_dim, natDegree_gf2Poly, hf]
    rfl
  have := Fintype.ofFinite (AdjoinRoot (gf2Poly f))
  rw [← hcard, Nat.card_eq_fintype_card]
  exact FiniteField.pow_card x

/-- The inverse of a nonzero class is its power `2^n − 2` (42 R206). -/
theorem mul_pow_card_sub_two (hf : bitLen f = n + 1) (hirr : PolyIrreducible f) (hn : 1 ≤ n)
    {x : AdjoinRoot (gf2Poly f)} (hx : x ≠ 0) : x * x ^ (2 ^ n - 2) = 1 := by
  have hfact := Fact.mk (polyIrreducible_iff.1 hirr)
  have hsplit : 2 ^ n - 2 + 1 + 1 = 2 ^ n := by
    have := Nat.pow_le_pow_right Nat.two_pos hn
    omega
  refine mul_left_cancel₀ hx ?_
  rw [mul_one, ← pow_succ', ← pow_succ', hsplit]
  exact residue_pow_card hf hirr x

/-- The square root of a class is its power `2^(n−1)` (42 R208). -/
theorem pow_half_card_mul_self (hf : bitLen f = n + 1) (hirr : PolyIrreducible f) (hn : 1 ≤ n)
    (x : AdjoinRoot (gf2Poly f)) : x ^ 2 ^ (n - 1) * x ^ 2 ^ (n - 1) = x := by
  rw [← pow_add, ← Nat.two_mul, ← Nat.pow_succ', Nat.succ_eq_add_one, Nat.sub_add_cancel hn]
  exact residue_pow_card hf hirr x

end Residues

end Sys2Proof.Machine

/-! ## The small-field unit (42_small_field)

A configured field has a polynomial of degree `m`, so its results are elements, and each is known by its class modulo SF_POLY. -/

namespace Sys2Proof.Machine

section SmallFields

variable {F : SmallField}

/-! ### Operations of a configured field -/

/-- What a configured small field holds (10_state R43, 42 R200). -/
theorem SmallField.bounds_of_ok (h : F.ok = true) (hv : F.valid = true) :
    2 ≤ F.m.toNat ∧ bitLen F.poly.toNat = F.m.toNat + 1 := by
  simp only [SmallField.ok, if_pos hv, Bool.and_eq_true, decide_eq_true_eq, beq_iff_eq] at h
  obtain ⟨⟨⟨h2, -⟩, hpoly⟩, -⟩ := h
  exact ⟨h2, hpoly⟩

theorem SmallField.residue_mul (F : SmallField) (a b : Nat) :
    residue F.poly.toNat (F.mul a b) = residue F.poly.toNat a * residue F.poly.toNat b := by
  rw [SmallField.mul, residue_polyMod, residue_clmul]

theorem SmallField.residue_pow (F : SmallField) (x e : Nat) :
    residue F.poly.toNat (F.pow x e) = residue F.poly.toNat x ^ e :=
  map_power F.residue_mul (residue_one _) x e

theorem SmallField.residue_timesPow (F : SmallField) (x e : Nat) :
    residue F.poly.toNat (F.timesPow x e) = residue F.poly.toNat x ^ e := by
  rw [SmallField.timesPow, map_repeatTimes_mul F.residue_mul, residue_one, mul_one]

theorem SmallField.residue_sqrt (F : SmallField) (x : Nat) :
    residue F.poly.toNat (F.sqrt x) = residue F.poly.toNat x ^ 2 ^ (F.m.toNat - 1) :=
  map_repeatTimes_sq F.residue_mul x _

section Configured

variable (hok : F.ok = true) (hv : F.valid = true)
include hok hv

theorem SmallField.one_lt : 1 < 2 ^ F.m.toNat := by
  obtain ⟨h2, -⟩ := F.bounds_of_ok hok hv
  exact Nat.one_lt_two_pow (by omega)

theorem SmallField.mul_lt (a b : Nat) : F.mul a b < 2 ^ F.m.toNat :=
  polyMod_lt (F.bounds_of_ok hok hv).2 _

theorem SmallField.pow_lt (x e : Nat) : F.pow x e < 2 ^ F.m.toNat :=
  powerLoop_lt (F.mul_lt hok hv) (F.one_lt hok hv) _ e

/-- Square and multiply answers the repeated product (42 R207, R210). -/
theorem SmallField.pow_eq_timesPow (x e : Nat) : F.pow x e = F.timesPow x e := by
  refine eq_of_residue_eq (F.bounds_of_ok hok hv).2 (F.pow_lt hok hv x e) ?_ ?_
  · exact repeatTimes_lt (F.mul_lt hok hv x) (F.one_lt hok hv) e
  · rw [F.residue_pow, F.residue_timesPow]

theorem SmallField.inv_lt (x : Nat) : F.inv x < 2 ^ F.m.toNat := F.pow_lt hok hv x _

theorem SmallField.sqrt_lt {x : Nat} (hx : x < 2 ^ F.m.toNat) : F.sqrt x < 2 ^ F.m.toNat :=
  repeatTimes_lt (fun z => F.mul_lt hok hv z z) hx _

/-- In a field a nonzero element times its inverse is 1 (42 R206). -/
theorem SmallField.polyDvd_mul_inv (hirr : PolyIrreducible F.poly.toNat) {x : Nat} (hx : x < 2 ^ F.m.toNat) (h0 : x ≠ 0) :
    PolyDvd F.poly.toNat (clmul x (F.inv x) ^^^ 1) := by
  obtain ⟨h2, hlen⟩ := F.bounds_of_ok hok hv
  have hne : residue F.poly.toNat x ≠ 0 := fun h =>
    h0 (eq_of_residue_eq hlen hx (Nat.two_pow_pos _) (h.trans (residue_zero _).symm))
  rw [← residue_eq_iff, residue_clmul, SmallField.inv, F.residue_pow, residue_one]
  exact mul_pow_card_sub_two hlen hirr (by omega) hne

/-- In a field the square of the root is the element (42 R208). -/
theorem SmallField.polyDvd_sqrt_mul_self (hirr : PolyIrreducible F.poly.toNat) (x : Nat) :
    PolyDvd F.poly.toNat (clmul (F.sqrt x) (F.sqrt x) ^^^ x) := by
  obtain ⟨h2, hlen⟩ := F.bounds_of_ok hok hv
  rw [← residue_eq_iff, residue_clmul, F.residue_sqrt]
  exact pow_half_card_mul_self hlen hirr (by omega) _

end Configured

/-! ### Checks and endings -/

variable {i : Instr} {s : State}

theorem check_congr {c d : Prop} [Decidable c] [Decidable d] (e : ErrCode) (h : c ↔ d) : check c e = check d e :=
  if_congr h rfl rfl

theorem isElem_iff (s : State) (k : SReg) : s.sf.isElem (s.S k) = true ↔ s.ScalarElem k := decide_eq_true_iff

theorem checkScalarElem_eq (s : State) (k : SReg) : s.checkScalarElem k = check (s.ScalarElem k) .illegalElem :=
  check_congr _ (isElem_iff s k)

/-- The check of a scalar source, as the condition of R202. -/
theorem Outcome_checkScalarElem {k : SReg} {r : Unit → Except ErrCode State} {rest : List (Prop × ErrCode)} {last : Prop}
    (h : exec i s = finish s (s.checkScalarElem k >>= r))
    (hnext : s.ScalarElem k → exec i s = finish s (r ()) → Outcome i s rest last) :
    Outcome i s ((s.ScalarElem k, .illegalElem) :: rest) last := by
  rw [checkScalarElem_eq] at h
  exact Outcome_check h hnext

/-- A check a command leaves out where its condition holds. -/
theorem Outcome_of_holds {c : Prop} {e : ErrCode} {rest : List (Prop × ErrCode)} {last : Prop} (hc : c)
    (h : Outcome i s rest last) : Outcome i s ((c, e) :: rest) last :=
  ⟨fun hn => absurd hc hn, fun _ => h⟩

/-- SF.CFG's degree check (42 R201). -/
theorem polyDeg_eq_iff {a n : Nat} : polyDeg a = (n : Int) ↔ bitLen a = n + 1 := by
  unfold polyDeg
  omega

/-- SF.CFG completes with its context and changes nothing else (42 R201). -/
theorem completes_withSf {c : SmallField} (h : exec i s = finish s (.ok { s with sf := c })) :
    Completes i s (fun t => t.sf = c ∧ Effect s t 0 [] [] [] ∧ t.efc0 = s.efc0 ∧ t.efc1 = s.efc1 ∧ t.cob = s.cob) :=
  Completes_of h ⟨rfl, Effect_of rfl ⟨rfl, rfl, rfl, rfl, rfl, rfl⟩ (fun _ _ => rfl) (fun _ _ => rfl) (fun _ _ => rfl)
    ⟨rfl, rfl, rfl⟩ (fun _ => rfl), rfl, rfl, rfl⟩

/-- A product in the field as its command writes it (42 R204, R205). -/
theorem writesScalar_product {dst : SReg} {a b : Nat} (hok : s.sf.ok = true) (hv : s.sf.valid = true)
    (h : exec i s = finish s (.ok (s.setElem dst (s.sf.mul a b)))) :
    ∃ r, r < 2 ^ s.sf.m.toNat ∧ PolyDvd s.sf.poly.toNat (clmul a b ^^^ r)
      ∧ WritesScalar i s dst (BitVec.ofNat 32 r) :=
  ⟨_, s.sf.mul_lt hok hv a b, polyDvd_xor_polyMod _ _, writesScalar_setS h⟩

end SmallFields

/-! ### The statements -/

/-- Settles O29: the checks of the model are those of R201, since IRR_CONST decides about constants alone. -/
theorem sfCfgConfiguresOrKeepsTheField : Obligations.SfCfgConfiguresOrKeepsTheField := by
  unfold Obligations.SfCfgConfiguresOrKeepsTheField
  intro s m poly
  refine Outcome_check rfl fun hm h => ?_
  rw [check_congr _ polyDeg_eq_iff] at h
  refine Outcome_check h fun hlen h => ?_
  rw [irreducible_of_bitLen hlen (by omega) s.params.irrConst true] at h
  exact Outcome_check h fun _ h => completes_withSf h

/-- Settles O30: the checks in order, then one scalar. -/
theorem sfAddAndSfIselWriteTheirScalar : Obligations.SfAddAndSfIselWriteTheirScalar := by
  unfold Obligations.SfAddAndSfIselWriteTheirScalar
  intro s dst a b
  constructor
  · exact Outcome_check rfl fun _ h => Outcome_checkScalarElem h fun _ h => Outcome_checkScalarElem h fun _ h =>
      writesScalar_setS h
  · refine Outcome_check rfl fun _ h => ?_
    rw [← if_congr (isElem_iff s a) rfl rfl]
    exact writesScalar_setS h

/-- Settles O31: the remainder of the product modulo SF_POLY is an element congruent to it. -/
theorem sfMulAndSfSqrReduceTheProduct : Obligations.SfMulAndSfSqrReduceTheProduct := by
  unfold Obligations.SfMulAndSfSqrReduceTheProduct
  intro s dst a b hok
  constructor
  · exact Outcome_check rfl fun hv h => Outcome_checkScalarElem h fun _ h => Outcome_checkScalarElem h fun _ h =>
      writesScalar_product hok hv h
  · exact Outcome_check rfl fun hv h => Outcome_checkScalarElem h fun _ h => writesScalar_product hok hv h

/-- Settles O32, by the sign of the exponent: only a negative one needs an inverse, and the model's powers are repeated
products. -/
theorem sfExpIsARepeatedProduct : Obligations.SfExpIsARepeatedProduct := by
  unfold Obligations.SfExpIsARepeatedProduct
  intro s dst a k hok
  refine Outcome_check rfl fun hv h => Outcome_checkScalarElem h fun _ h => ?_
  have hpow := SmallField.pow_eq_timesPow hok hv
  dsimp only at h
  rw [SmallField.inv, hpow, hpow, hpow] at h
  rcases lt_trichotomy (s.S k).toInt 0 with hneg | hzero | hpos
  · rw [if_neg hneg.ne, if_neg hneg.not_gt] at h ⊢
    rw [check_congr _ (or_iff_right hneg.not_ge).symm] at h
    exact Outcome_check h fun _ h => writesScalar_setS h
  · rw [if_pos hzero] at h ⊢
    exact Outcome_of_holds (.inl hzero.ge) (writesScalar_setS h)
  · rw [if_neg hpos.ne', if_pos hpos] at h ⊢
    exact Outcome_of_holds (.inl hpos.le) (writesScalar_setS h)

/-- Settles O33: the classes modulo an irreducible polynomial of degree `m` are a field of `2^m` elements, where
`x^(2^m) = x`. -/
theorem sfInvAndSfSqrtInvertTheirProducts : Obligations.SfInvAndSfSqrtInvertTheirProducts := by
  unfold Obligations.SfInvAndSfSqrtInvertTheirProducts
  intro s dst a hok hirr
  constructor
  · exact Outcome_check rfl fun hv h => Outcome_checkScalarElem h fun ha h => Outcome_check h fun h0 h =>
      ⟨s.sf.inv (s.S a).toNat, SmallField.inv_lt hok hv _, SmallField.pow_eq_timesPow hok hv _ _,
        SmallField.polyDvd_mul_inv hok hv (hirr hv) ha h0, writesScalar_setS h⟩
  · exact Outcome_check rfl fun hv h => Outcome_checkScalarElem h fun ha h =>
      ⟨s.sf.sqrt (s.S a).toNat, SmallField.sqrt_lt hok hv ha, rfl, SmallField.polyDvd_sqrt_mul_self hok hv (hirr hv) _,
        writesScalar_setS h⟩

end Sys2Proof.Machine

/-! ## Elements of an extension field in operand memory (20_memory R86; 43 R234)

An element is stored as it is, or with its bits reversed, and reads back; the checks and the store the element commands share.
From here on `Elab.async` is off, as in the tests: checking these theorems at once needs more memory than the sandbox allows. -/

namespace Sys2Proof.Machine

set_option Elab.async false

section ElementStores

variable {i : Instr} {s t : State} {E : ExtField} {d : DReg} {x n : Nat}

/-! ### Layout -/

theorem testBit_bitString (n : Nat) (p : Nat → Bool) (k : Nat) : (bitString n p).testBit k = (decide (k < n) && p k) := by
  induction n with
  | zero => simp [bitString, xorSum]
  | succ n ih =>
    have hsplit : bitString (n + 1) p = bitString n p ^^^ (if p n then 1 <<< n else 0) := rfl
    have hlast : (if p n then 1 <<< n else 0).testBit k = (decide (n = k) && p n) := by
      cases p n <;> simp [Nat.one_shiftLeft, Nat.testBit_two_pow]
    rw [hsplit, Nat.testBit_xor, ih, hlast]
    rcases lt_trichotomy k n with h | rfl | h
    · simp [h, h.ne', Nat.lt_succ_of_lt h]
    · simp
    · simp [h.ne, h.not_gt, Nat.not_lt.2 h]

theorem reverseBits_lt (n a : Nat) : reverseBits n a < 2 ^ n := bitString_lt n _

/-- Reversing the bits twice changes nothing. -/
theorem reverseBits_reverseBits (hx : x < 2 ^ n) : reverseBits n (reverseBits n x) = x := by
  refine Nat.eq_of_testBit_eq fun k => ?_
  rw [reverseBits, testBit_bitString, reverseBits, testBit_bitString]
  by_cases hk : k < n
  · have hback : n - 1 - (n - 1 - k) = k := by omega
    have hin : n - 1 - k < n := by omega
    simp [hk, hback, hin]
  · have hle : 2 ^ n ≤ 2 ^ k := Nat.pow_le_pow_right Nat.two_pos (by omega)
    simp [hk, Nat.testBit_lt_two_pow (Nat.lt_of_lt_of_le hx hle)]

theorem ExtField.toStored_lt (hx : x < 2 ^ E.deg) : E.toStored x < 2 ^ E.deg := by
  unfold ExtField.toStored
  split
  · exact hx
  · exact reverseBits_lt _ _
  · exact reverseBits_lt _ _

theorem ExtField.ofStored_lt (hx : x < 2 ^ E.deg) : E.ofStored x < 2 ^ E.deg := by
  unfold ExtField.ofStored
  split
  · exact hx
  · exact reverseBits_lt _ _
  · exact reverseBits_lt _ _

theorem ExtField.ofStored_toStored (hx : x < 2 ^ E.deg) : E.ofStored (E.toStored x) = x := by
  unfold ExtField.ofStored ExtField.toStored
  cases E.kind with
  | poly => rfl
  | onb1 => exact reverseBits_reverseBits hx
  | onb2 => exact reverseBits_reverseBits hx

theorem ExtField.deg_lt (E : ExtField) : E.deg < 2 ^ 32 := E.n.isLt

theorem elem_lt (h : s.len d = E.deg) : s.elem E d < 2 ^ E.deg := E.ofStored_lt (poly_lt_of_le h.le)

theorem State.drawElem_lt (s : State) (E : ExtField) : (s.drawElem E).1 < 2 ^ E.deg :=
  E.ofStored_lt (Nat.mod_lt _ (Nat.two_pow_pos _))

/-! ### Checks -/

theorem checkElem_eq (s : State) (E : ExtField) (d : DReg) :
    s.checkElem E d = (do check (s.PolySource d) .bounds; check (s.len d = E.deg) .dim) := by
  rw [← checkPoly_eq]
  rfl

/-- The checks of an element source: BOUNDS, then DIM. -/
theorem Outcome_checkElem {r : Unit → Except ErrCode State} {rest : List (Prop × ErrCode)} {last : Prop}
    (h : exec i s = finish s (s.checkElem E d >>= r))
    (k : s.len d = E.deg → exec i s = finish s (r ()) → Outcome i s rest last) :
    Outcome i s ((s.PolySource d, .bounds) :: (s.len d = E.deg, .dim) :: rest) last := by
  rw [checkElem_eq, bind_assoc] at h
  exact Outcome_check h fun _ h => Outcome_check h k

/-! ### One store -/

/-- What `WriteElem` stored reads back as the element. -/
theorem PolyResult.elemResult {u : State} (h : PolyResult s u d (E.toStored x) E.deg) (hx : x < 2 ^ E.deg) :
    ElemResult s u E d x := by
  refine ⟨?_, h⟩
  obtain ⟨hpoly, -⟩ := h
  rw [State.elem, hpoly, E.ofStored_toStored hx]

theorem elemResult_putElem (hx : x < 2 ^ E.deg) : ElemResult s (s.putElem E d x) E d x :=
  (polyResult_putPoly (E.toStored_lt hx) E.deg_lt).elemResult hx

/-- CAPACITY, or the element stored (43 R234). -/
theorem Outcome_storeElem (h : exec i s = finish s (s.storeElem E d x)) (hx : x < 2 ^ E.deg) :
    Outcome i s [(wordsFor E.deg ≤ s.cap d, .capacity)]
      (StoresAt i s d (wordsFor E.deg) (fun t => ElemResult s t E d x)) := by
  refine Outcome_check h fun _ h => ?_
  obtain ⟨u, hu, hres, hrest⟩ := storesAt_putPoly h (E.toStored_lt hx) E.deg_lt
  exact ⟨u, hu, hres.elemResult hx, hrest⟩

/-- The last part of an outcome may be replaced by one it gives. -/
theorem Outcome.mono {checks : List (Prop × ErrCode)} {p q : Prop} (h : Outcome i s checks p) (hpq : p → q) :
    Outcome i s checks q := by
  induction checks with
  | nil => exact hpq h
  | cons c rest ih =>
    obtain ⟨hfail, hpass⟩ := h
    exact ⟨hfail, fun hc => ih (hpass hc)⟩

end ElementStores

end Sys2Proof.Machine

/-! ## EF.CFG (43_ext_field R231 to R233)

The exponents of a polynomial's terms in rising order decide its reduction class; the index map and the polynomial of a normal basis
are those of R232. -/

namespace Sys2Proof.Machine

set_option Elab.async false

section Configuration

variable {i : Instr} {s : State} {c : Ctx} {E : ExtField} {P n : Nat}

/-! ### Terms -/

/-- The exponents of the terms of `P`, from the lowest. -/
def polyTerms (P : Nat) : List Nat := (List.range (bitLen P)).filter P.testBit

theorem weight_eq (P : Nat) : weight P = (polyTerms P).length := rfl

theorem toNat_exponentAt {j : Nat} (h : (polyTerms P).getD j 0 < 2 ^ 32) :
    (exponentAt P j).toNat = (polyTerms P).getD j 0 :=
  (BitVec.toNat_ofNat ..).trans (Nat.mod_eq_of_lt h)

theorem polyTerms_sorted (P : Nat) : (polyTerms P).Pairwise (· < ·) := List.pairwise_lt_range.filter _

theorem lt_bitLen_of_testBit {k : Nat} (h : P.testBit k = true) : k < bitLen P := by
  by_contra hk
  have hle : 2 ^ bitLen P ≤ 2 ^ k := Nat.pow_le_pow_right Nat.two_pos (Nat.not_lt.1 hk)
  rw [Nat.testBit_lt_two_pow (Nat.lt_of_lt_of_le (lt_two_pow_bitLen P) hle)] at h
  cases h

theorem mem_polyTerms {k : Nat} : k ∈ polyTerms P ↔ P.testBit k = true := by
  simp only [polyTerms, List.mem_filter, List.mem_range, and_iff_right_iff_imp]
  exact lt_bitLen_of_testBit

theorem sum_two_pow_bits (P m : Nat) : (((List.range m).filter P.testBit).map (2 ^ ·)).sum = P % 2 ^ m := by
  induction m with
  | zero => simp [Nat.mod_one]
  | succ m ih =>
    rw [List.range_succ, List.filter_append, List.map_append, List.sum_append, ih, Nat.mod_pow_succ, ← Nat.toNat_testBit]
    cases h : P.testBit m <;> simp [h]

/-- A number is the sum of the powers of its terms. -/
theorem sum_polyTerms (P : Nat) : ((polyTerms P).map (2 ^ ·)).sum = P :=
  (sum_two_pow_bits P _).trans (Nat.mod_eq_of_lt (lt_two_pow_bitLen P))

/-- An irreducible polynomial of degree 2 or more has the term 1. -/
theorem testBit_zero_of_irreducible (hP : PolyIrreducible P) (hlen : bitLen P = n + 1) (hn : 2 ≤ n) :
    P.testBit 0 = true := by
  obtain ⟨-, hfac⟩ := hP
  have hbig : 2 ^ n ≤ P := Nat.ge_two_pow_of_testBit (testBit_of_bitLen hlen)
  have h4 : 2 ^ 2 ≤ 2 ^ n := Nat.pow_le_pow_right Nat.two_pos hn
  by_contra h0
  have heven : P % 2 = 0 := by simpa [Nat.testBit_zero] using h0
  refine hfac (P / 2) (by omega) 2 (by omega) (gf2Poly_injective ?_)
  have hshift : P = (P / 2) <<< 1 := by
    rw [Nat.shiftLeft_eq]
    omega
  rw [gf2Poly_clmul, gf2Poly_two]
  conv_rhs => rw [hshift, gf2Poly_shiftLeft, pow_one]

/-- The terms of an irreducible polynomial of degree `n` start at 0 and end at `n`. -/
theorem polyTerms_bounds (hP : PolyIrreducible P) (hlen : bitLen P = n + 1) (hn : 2 ≤ n) :
    0 ∈ polyTerms P ∧ n ∈ polyTerms P ∧ ∀ k ∈ polyTerms P, k ≤ n := by
  refine ⟨mem_polyTerms.2 (testBit_zero_of_irreducible hP hlen hn), mem_polyTerms.2 (testBit_of_bitLen hlen), fun k hk => ?_⟩
  have := lt_bitLen_of_testBit (mem_polyTerms.1 hk)
  omega

/-- Three terms: `x^n + x^k + 1` (R233). -/
theorem polyTerms_of_weight_three (hP : PolyIrreducible P) (hlen : bitLen P = n + 1) (hn : 2 ≤ n) (hw : weight P = 3) :
    ∃ k, polyTerms P = [0, k, n] ∧ 0 < k ∧ k < n ∧ P = 2 ^ n + 2 ^ k + 1 := by
  obtain ⟨h0, htop, hle⟩ := polyTerms_bounds hP hlen hn
  have hsum := sum_polyTerms P
  have hsort := polyTerms_sorted P
  obtain ⟨a, k, b, hL⟩ := List.length_eq_three.1 ((weight_eq P).symm.trans hw)
  simp only [hL, List.mem_cons, List.not_mem_nil, or_false, List.pairwise_cons, forall_eq_or_imp, forall_eq] at *
  obtain rfl : a = 0 := by omega
  obtain rfl : b = n := by omega
  simp at hsum
  exact ⟨k, rfl, by omega, by omega, by omega⟩

theorem length_eq_five {α : Type} {l : List α} (h : l.length = 5) : ∃ a b c d e, l = [a, b, c, d, e] := by
  match l, h with
  | [a, b, c, d, e], _ => exact ⟨a, b, c, d, e, rfl⟩

/-- Five terms: `x^n + x^k3 + x^k2 + x^k1 + 1` (R233). -/
theorem polyTerms_of_weight_five (hP : PolyIrreducible P) (hlen : bitLen P = n + 1) (hn : 2 ≤ n) (hw : weight P = 5) :
    ∃ k1 k2 k3, polyTerms P = [0, k1, k2, k3, n] ∧ 0 < k1 ∧ k1 < k2 ∧ k2 < k3 ∧ k3 < n
      ∧ P = 2 ^ n + 2 ^ k3 + 2 ^ k2 + 2 ^ k1 + 1 := by
  obtain ⟨h0, htop, hle⟩ := polyTerms_bounds hP hlen hn
  have hsum := sum_polyTerms P
  have hsort := polyTerms_sorted P
  obtain ⟨a, k1, k2, k3, b, hL⟩ := length_eq_five ((weight_eq P).symm.trans hw)
  simp only [hL, List.mem_cons, List.not_mem_nil, or_false, List.pairwise_cons, forall_eq_or_imp, forall_eq] at *
  obtain rfl : a = 0 := by omega
  obtain rfl : b = n := by omega
  simp at hsum
  exact ⟨k1, k2, k3, rfl, by omega, by omega, by omega, by omega, by omega⟩

/-! ### Normal bases -/

theorem isPrime_iff (p : Nat) : isPrime p = true ↔ p.Prime := by
  rw [Nat.prime_def_lt']
  simp only [isPrime, Bool.and_eq_true, decide_eq_true_eq, List.all_eq_true, List.mem_range, Bool.or_eq_true, bne_iff_ne,
    ne_eq, Nat.dvd_iff_mod_eq_zero]
  refine and_congr_right fun _ => forall_congr' fun d => ⟨fun h h2 hd => ?_, fun h hd => ?_⟩
  · exact (h hd).resolve_left (by omega)
  · by_cases h2 : d < 2
    · exact .inl h2
    · exact .inr (h (by omega) hd)

/-- The basis exists where the prime is one and the index map has distinct values (R232). -/
theorem onbExists_iff {kind : Kind} : onbExists kind n = true ↔ (onbPrime kind n).Prime
    ∧ ∀ i j, i < n → j < n → onbIndex kind n i = onbIndex kind n j → i = j := by
  simp only [onbExists, Bool.and_eq_true, isPrime_iff, decide_eq_true_eq, onbIndexMap,
    List.nodup_map_iff_inj_on List.nodup_range, List.mem_range]
  exact and_congr_right fun _ => ⟨fun h i j hi hj => h i hi j hj, fun h i hi j hj => h i j hi hj⟩

theorem onbIndexMap_getD {kind : Kind} {j : Nat} (hj : j < n) : (onbIndexMap kind n).getD j 0 = onbIndex kind n j := by
  simp [onbIndexMap, List.getD_eq_getElem?_getD, hj]

theorem onbIndexMap_length (kind : Kind) (n : Nat) : (onbIndexMap kind n).length = n := by
  simp [onbIndexMap]

theorem testBit_onbPoly_onb1 (n k : Nat) : (onbPoly .onb1 n).testBit k = decide (k ≤ n) := by
  simp [onbPoly, Nat.testBit_two_pow_sub_one]

/-- The polynomial of type II follows the recurrence of R232. -/
theorem onb2Poly_recurrence (k : Nat) : (onb2Poly (k + 2)).1 = (2 * (onb2Poly (k + 1)).1) ^^^ (onb2Poly k).1 := by
  simp only [onb2Poly, Nat.shiftLeft_eq, pow_one, Nat.mul_comm 2]

/-! ### The command -/

/-- EF.CFG completes with its context and changes nothing else (R233). -/
theorem completes_setEfc (h : exec i s = finish s (.ok (s.setEfc c E))) {post : State → Prop}
    (hpost : ∀ t, t.efc c = E → Effect s t 0 [] [] [] ∧ t.sf = s.sf ∧ t.efc (otherCtx c) = s.efc (otherCtx c) ∧ t.cob = s.cob →
      post t) : Completes i s post := by
  refine Completes_of h (hpost _ (State.efc_setEfc_self s c E) ⟨?_, State.setEfc_sf s c E, State.efc_setEfc_other s c E,
    State.setEfc_cob s c E⟩)
  exact Effect_of (by simp) (by simp) (fun _ _ => by simp [State.S]) (fun _ _ => by simp [State.D])
    (fun _ _ => by simp [State.readByte]) (by simp) (fun _ => by simp)

theorem kindOfWord_eq_none {w : Word} (h : 2 < w.toNat) : kindOfWord w = none := by
  have hne (v : Word) (hv : v.toNat ≤ 2) : w ≠ v := by
    rintro rfl
    omega
  rw [kindOfWord, if_neg (hne 0 (by decide)), if_neg (hne 1 (by decide)), if_neg (hne 2 (by decide))]

/-- EF.CFG for a normal basis: the descriptor is not checked (R233). -/
theorem exec_efCfg_onb {d : DReg} {base : SReg} {kind : Kind} (hk : kindOfWord (s.Sb base 1) = some kind) (hne : kind ≠ .poly) :
    exec (.efCfg d base c) s = finish s (do
      check (scalarBaseOk base 3 = true) .illegalCmd
      check (2 ≤ (s.Sb base 0).toNat ∧ (s.Sb base 0).toNat ≤ s.params.nMax.toNat) .illegalField
      check (onbExists kind (s.Sb base 0).toNat = true) .illegalField
      .ok (s.setEfc c (onbContext kind (s.Sb base 0) (s.Sb base 2)))) := by
  cases kind with
  | poly => exact absurd rfl hne
  | onb1 | onb2 => simp only [exec, execEfCfg, hk]

/-- EF.CFG for a polynomial basis (R233). -/
theorem exec_efCfg_poly {d : DReg} {base : SReg} (hk : s.Sb base 1 = 0) :
    exec (.efCfg d base c) s = finish s (do
      check (scalarBaseOk base 3 = true) .illegalCmd
      s.checkPoly d
      check (2 ≤ (s.Sb base 0).toNat ∧ (s.Sb base 0).toNat ≤ s.params.nMax.toNat) .illegalField
      check (polyDeg (s.poly d) = ((s.Sb base 0).toNat : Int)) .illegalField
      check (irreducible s.params.irrConst (s.poly d) = true) .illegalField
      .ok (s.setEfc c (polyContext (s.Sb base 0) (s.Sb base 2) (s.poly d)))) := by
  have hkind : kindOfWord (s.Sb base 1) = some .poly := by rw [hk]; rfl
  simp only [exec, execEfCfg, hkind]

/-- EF.CFG for a kind above 2 (R233). -/
theorem exec_efCfg_none {d : DReg} {base : SReg} (hk : kindOfWord (s.Sb base 1) = none) :
    exec (.efCfg d base c) s = finish s (do
      check (scalarBaseOk base 3 = true) .illegalCmd
      .error .illegalParam) := by
  simp only [exec, execEfCfg, hk]

/-! ### Reduction classes -/

/-- The reduction class of a polynomial of three terms (R233). -/
theorem polyContext_of_weight_three {m id : Word} (hP : PolyIrreducible P) (hlen : bitLen P = m.toNat + 1) (hn : 2 ≤ m.toNat)
    (hw : weight P = 3) : ∃ k : Word, 0 < k.toNat ∧ k.toNat < m.toNat ∧ P = 2 ^ m.toNat + 2 ^ k.toNat + 1
      ∧ polyContext m id P = { valid := true, kind := .poly, n := m, fieldId := id, rtype := .trinomial, k1 := k, k2 := 0,
                               k3 := 0, poly := P, indexMap := [] } := by
  obtain ⟨k, hterms, h0, hk, hsum⟩ := polyTerms_of_weight_three hP hlen hn hw
  have hm := m.isLt
  have hk1 : (exponentAt P 1).toNat = k := by
    rw [toNat_exponentAt] <;> simp only [hterms, List.getD_cons_succ, List.getD_cons_zero]
    omega
  refine ⟨exponentAt P 1, by omega, by omega, by rw [hk1]; exact hsum, ?_⟩
  simp [polyContext, hw]

/-- The reduction class of a polynomial of five terms (R233). -/
theorem polyContext_of_weight_five {m id : Word} (hP : PolyIrreducible P) (hlen : bitLen P = m.toNat + 1) (hn : 2 ≤ m.toNat)
    (hw : weight P = 5) : ∃ k1 k2 k3 : Word, 0 < k1.toNat ∧ k1.toNat < k2.toNat ∧ k2.toNat < k3.toNat ∧ k3.toNat < m.toNat
      ∧ P = 2 ^ m.toNat + 2 ^ k3.toNat + 2 ^ k2.toNat + 2 ^ k1.toNat + 1
      ∧ polyContext m id P = { valid := true, kind := .poly, n := m, fieldId := id, rtype := .pentanomial, k1 := k1, k2 := k2,
                               k3 := k3, poly := P, indexMap := [] } := by
  obtain ⟨k1, k2, k3, hterms, h0, h12, h23, h3, hsum⟩ := polyTerms_of_weight_five hP hlen hn hw
  have hm := m.isLt
  have hexp (j : Nat) (hj : (polyTerms P).getD j 0 < m.toNat) : (exponentAt P j).toNat = (polyTerms P).getD j 0 :=
    toNat_exponentAt (by omega)
  have hk1 : (exponentAt P 1).toNat = k1 := by rw [hexp] <;> simp [hterms]; omega
  have hk2 : (exponentAt P 2).toNat = k2 := by rw [hexp] <;> simp [hterms]; omega
  have hk3 : (exponentAt P 3).toNat = k3 := by rw [hexp] <;> simp [hterms]; omega
  refine ⟨exponentAt P 1, exponentAt P 2, exponentAt P 3, by omega, by omega, by omega, by omega, ?_, ?_⟩
  · rw [hk1, hk2, hk3]
    exact hsum
  · simp [polyContext, hw]

/-- Any other polynomial has no reduction class (R233). -/
theorem polyContext_of_other_weight {m id : Word} (h3 : weight P ≠ 3) (h5 : weight P ≠ 5) :
    polyContext m id P = { valid := true, kind := .poly, n := m, fieldId := id, rtype := .generic, k1 := 0, k2 := 0,
                           k3 := 0, poly := P, indexMap := [] } := by
  simp [polyContext, h3, h5]

end Configuration

/-! ### The statements -/

/-- Settles O34: the checks of the model are those of R233, and the exponents of an irreducible polynomial's terms start at 0 and
end at its degree, so three or five of them are the exponents of its reduction class. -/
theorem efCfgPolynomialBasis : Obligations.EfCfgPolynomialBasis := by
  unfold Obligations.EfCfgPolynomialBasis
  intro s d base c _ hk
  refine Outcome_check (exec_efCfg_poly hk) fun _ h => Outcome_checkPoly h fun _ h => Outcome_check h fun hn h => ?_
  rw [check_congr _ polyDeg_eq_iff] at h
  refine Outcome_check h fun hlen h => ?_
  rw [irreducible_of_bitLen hlen (by omega) s.params.irrConst true] at h
  refine Outcome_check h fun hirr h => completes_setEfc h fun t ht hkept => ?_
  have hP : PolyIrreducible (s.poly d) := (irreducibilityTestIsExact _ _ (by
    have := Nat.ge_two_pow_of_testBit (testBit_of_bitLen hlen)
    have := Nat.pow_le_pow_right Nat.two_pos hn.1
    omega)).1 hirr
  rw [ht]
  refine ⟨⟨rfl, rfl, rfl, rfl, rfl, rfl⟩, fun hw => ?_, fun hw => ?_, fun h3 h5 => ?_, hkept⟩
  · obtain ⟨k, hpos, hlt, hsum, hctx⟩ := polyContext_of_weight_three (id := s.Sb base 2) hP hlen hn.1 hw
    rw [hctx]
    exact ⟨rfl, rfl, rfl, hpos, hlt, hsum⟩
  · obtain ⟨k1, k2, k3, hpos, h12, h23, hlt, hsum, hctx⟩ := polyContext_of_weight_five (id := s.Sb base 2) hP hlen hn.1 hw
    rw [hctx]
    exact ⟨rfl, hpos, h12, h23, hlt, hsum⟩
  · rw [polyContext_of_other_weight h3 h5]
    exact ⟨rfl, rfl, rfl, rfl⟩

/-- Settles O35: the descriptor plays no part, and the context stored holds the polynomial and the index map of R232. -/
theorem efCfgNormalBasis : Obligations.EfCfgNormalBasis := by
  unfold Obligations.EfCfgNormalBasis
  intro s d base c kind
  refine ⟨fun hk => Outcome_check (exec_efCfg_none (kindOfWord_eq_none hk)) fun _ h => h, fun hk => ?_⟩
  have hkind : kindOfWord (s.Sb base 1) = some kind := by
    rcases hk with ⟨hw, rfl⟩ | ⟨hw, rfl⟩ <;> rw [hw] <;> rfl
  have hne : kind ≠ .poly := by rcases hk with ⟨-, rfl⟩ | ⟨-, rfl⟩ <;> decide
  rw [← onbExists_iff]
  refine Outcome_check (exec_efCfg_onb hkind hne) fun _ h => Outcome_check h fun _ h => Outcome_check h fun _ h => completes_setEfc h fun t ht hkept => ⟨ht, ?_⟩
  rw [ht]
  refine ⟨?_, ?_, onbIndexMap_length _ _, fun i hi => (onbIndexMap_getD hi).trans ?_, hkept⟩
  · rintro rfl k
    exact testBit_onbPoly_onb1 _ k
  · rintro rfl
    exact ⟨fun k => (onb2Poly k).1, rfl, rfl, onb2Poly_recurrence, rfl⟩
  · rcases hk with ⟨-, rfl⟩ | ⟨-, rfl⟩ <;> rfl

end Sys2Proof.Machine

/-! ## The element commands (43_ext_field R234 to R244)

The checks of R234 are followed once for the commands of one element and once for those of two; what is left of a command is its own
check, one operation and one store. -/

namespace Sys2Proof.Machine

set_option Elab.async false

section ElementCommands

variable {i : Instr} {s : State} {c : Ctx} {E : ExtField} {dst a b : DReg}

/-- The checks of a command of one element, and what is left of it (R234). -/
theorem Outcome_efUnary {pre : ExtField → Nat → Except ErrCode Unit} {f : ExtField → Nat → Nat}
    {rest : List (Prop × ErrCode)} {last : Prop} (h : exec i s = efUnary dst a c s pre f) (hE : E = s.efc c)
    (k : E.valid = true → s.elem E a < 2 ^ E.deg →
      exec i s = finish s (pre E (s.elem E a) >>= fun _ => s.storeElem E dst (f E (s.elem E a))) → Outcome i s rest last) :
    Outcome i s ((E.valid = true, .fieldInvalid) :: (s.PolySource a, .bounds) :: (s.len a = E.deg, .dim)
      :: (s.inOm dst, .bounds) :: rest) last := by
  subst hE
  exact Outcome_check h fun hv h => Outcome_checkElem h fun hlen h => Outcome_check h fun _ h => k hv (elem_lt hlen) h

/-- A command of two elements (R234). -/
theorem efBinary_outcome {f : ExtField → Nat → Nat → Nat} (h : exec i s = efBinary dst a b c s f) (hE : E = s.efc c)
    (hf : ∀ x y, E.valid = true → x < 2 ^ E.deg → y < 2 ^ E.deg → f E x y < 2 ^ E.deg) :
    Outcome i s
      [(E.valid = true, .fieldInvalid), (s.PolySource a, .bounds), (s.len a = E.deg, .dim), (s.PolySource b, .bounds),
       (s.len b = E.deg, .dim), (s.inOm dst, .bounds), (wordsFor E.deg ≤ s.cap dst, .capacity)]
      (StoresAt i s dst (wordsFor E.deg) (fun t => ElemResult s t E dst (f E (s.elem E a) (s.elem E b)))) := by
  subst hE
  exact Outcome_check h fun hv h => Outcome_checkElem h fun ha h => Outcome_checkElem h fun hb h => Outcome_check h fun _ h =>
    Outcome_storeElem h (hf _ _ hv (elem_lt ha) (elem_lt hb))

/-- What holds where the first check passes may be added to the conclusion. -/
theorem Outcome.and_of_head {p q c : Prop} {e : ErrCode} {rest : List (Prop × ErrCode)} (h : Outcome i s ((c, e) :: rest) p)
    (hq : c → q) : Outcome i s ((c, e) :: rest) (p ∧ q) := by
  obtain ⟨hfail, hpass⟩ := h
  exact ⟨hfail, fun hc => (hpass hc).mono fun hp => ⟨hp, hq hc⟩⟩

theorem exec_efInv (dst a : DReg) (alg : InvAlg) (c : Ctx) (s : State) :
    exec (.efInv dst a alg c) s = efUnary dst a c s (fun _ x => check (x ≠ 0) .invZero) ExtField.inv := rfl

theorem exec_efHtrace (dst a : DReg) (c : Ctx) (s : State) :
    exec (.efHtrace dst a c) s = efUnary dst a c s (fun E _ => check (E.deg % 2 = 1) .degreeParity) ExtField.halfTrace := rfl

end ElementCommands

/-! ### The statements -/

/-- Settles O36: the context's polynomial has `n + 1` bits, and the trace bit is the model's own comparison. -/
theorem efGetpAndEfTraceReadTheirContext : Obligations.EfGetpAndEfTraceReadTheirContext := by
  unfold Obligations.EfGetpAndEfTraceReadTheirContext
  intro s dst r a c hp hok
  constructor
  · refine Outcome_check rfl fun hv h => Outcome_check h fun hin h => Outcome_check h fun hfit h => storesAt_putPoly h ?_ ?_
    · obtain ⟨-, hlen⟩ := ExtField.bounds_of_ok hok hv
      exact bitLen_le_iff.1 hlen.le
    · exact len_lt_of_fits hp hin hfit
  · exact Outcome_check rfl fun _ h => Outcome_checkElem h fun _ h => writesScalar_setS h

end Sys2Proof.Machine

/-! ## Optimal normal bases (43_ext_field R232)

The index map of a normal basis is a bijection onto `1, …, n`, the product is linear in each factor, and the coordinates of a product
of two basis elements are read off the index map. -/

namespace Sys2Proof.Machine

set_option Elab.async false

section NormalBases

variable {E : ExtField} {kind : Kind} {n i j h v : Nat}

/-! ### The index map -/

theorem onbPrime_onb1 (n : Nat) : onbPrime .onb1 n = n + 1 := rfl

theorem onbPrime_onb2 (n : Nat) : onbPrime .onb2 n = 2 * n + 1 := rfl

/-- Powers of 2 are units modulo the prime of a normal basis. -/
theorem two_pow_mod_onbPrime_pos (hk : kind ≠ .poly) (hn : 2 ≤ n) (hp : (onbPrime kind n).Prime) (i : Nat) :
    0 < 2 ^ i % onbPrime kind n := by
  have hbig : 2 < onbPrime kind n := by
    cases kind with
    | poly => exact absurd rfl hk
    | onb1 => rw [onbPrime_onb1]; omega
    | onb2 => rw [onbPrime_onb2]; omega
  refine Nat.pos_of_ne_zero fun hzero => ?_
  have hdvd := hp.dvd_of_dvd_pow (Nat.dvd_of_mod_eq_zero hzero)
  exact absurd (Nat.le_of_dvd Nat.two_pos hdvd) (by omega)

theorem onbIndex_bounds (hk : kind ≠ .poly) (hn : 2 ≤ n) (hp : (onbPrime kind n).Prime) (i : Nat) :
    1 ≤ onbIndex kind n i ∧ onbIndex kind n i ≤ n := by
  have hpos := two_pow_mod_onbPrime_pos hk hn hp i
  have hlt := Nat.mod_lt (2 ^ i) hp.pos
  cases kind with
  | poly => exact absurd rfl hk
  | onb1 =>
    rw [onbPrime_onb1] at hpos hlt
    simp only [onbIndex, onbPrime_onb1]
    omega
  | onb2 =>
    rw [onbPrime_onb2] at hpos hlt
    simp only [onbIndex, onbPrime_onb2, plusMinus]
    omega

/-- Distinct values among `1, …, n` are all of them. -/
theorem onbIndex_bijOn (hk : kind ≠ .poly) (hn : 2 ≤ n) (hex : onbExists kind n = true) :
    Set.BijOn (onbIndex kind n) (Finset.range n) (Finset.Icc 1 n) := by
  obtain ⟨hp, hinj⟩ := onbExists_iff.1 hex
  have hmaps : ∀ i ∈ Finset.range n, onbIndex kind n i ∈ Finset.Icc 1 n := fun i _ =>
    Finset.mem_Icc.2 (onbIndex_bounds hk hn hp i)
  have hinjOn : Set.InjOn (onbIndex kind n) (Finset.range n) := fun i hi j hj =>
    hinj i j (Finset.mem_range.1 hi) (Finset.mem_range.1 hj)
  exact ⟨hmaps, hinjOn, Finset.surjOn_of_injOn_of_card_le _ hmaps hinjOn (by simp)⟩

/-! ### Contexts -/

/-- What makes a context a normal basis: the index map of R232, for a degree that has one. -/
structure ExtField.NormalBasis (E : ExtField) : Prop where
  notPoly : E.kind ≠ .poly
  twoLe : 2 ≤ E.deg
  basisExists : onbExists E.kind E.deg = true
  map : E.indexMap = onbIndexMap E.kind E.deg

theorem ExtField.normalBasis_of_ok {p : Params} (hok : E.ok p = true) (hv : E.valid = true) (hk : E.kind ≠ .poly) :
    E.NormalBasis := by
  obtain ⟨h2, -⟩ := ExtField.bounds_of_ok hok hv
  simp only [ExtField.ok, if_pos hv, ExtField.configured, Bool.and_eq_true] at hok
  obtain ⟨-, hok⟩ := hok
  cases hkind : E.kind with
  | poly => exact absurd hkind hk
  | onb1 | onb2 =>
    simp only [hkind, Bool.and_eq_true, beq_iff_eq] at hok
    obtain ⟨⟨⟨⟨⟨⟨hex, hmap⟩, -⟩, -⟩, -⟩, -⟩, -⟩ := hok
    exact ⟨hk, h2, hkind ▸ hex, hkind ▸ hmap⟩

theorem normalBasis_onbContext {n id : Word} (hk : kind ≠ .poly) (hn : 2 ≤ n.toNat) (hex : onbExists kind n.toNat = true) :
    (onbContext kind n id).NormalBasis := ⟨hk, hn, hex, rfl⟩

section Basis

variable (hE : E.NormalBasis)
include hE

theorem ExtField.NormalBasis.getD (hi : i < E.deg) : E.indexMap.getD i 0 = onbIndex E.kind E.deg i := by
  rw [hE.map, onbIndexMap_getD hi]

theorem ExtField.NormalBasis.prime : (onbPrime E.kind E.deg).Prime := (onbExists_iff.1 hE.basisExists).1

theorem ExtField.NormalBasis.index_bijOn :
    Set.BijOn (onbIndex E.kind E.deg) (Finset.range E.deg) (Finset.Icc 1 E.deg) :=
  onbIndex_bijOn hE.notPoly hE.twoLe hE.basisExists

theorem ExtField.NormalBasis.index_inj (hi : i < E.deg) (hj : j < E.deg)
    (h : onbIndex E.kind E.deg i = onbIndex E.kind E.deg j) : i = j :=
  (onbExists_iff.1 hE.basisExists).2 i j hi hj h

theorem ExtField.NormalBasis.index_bounds (i : Nat) : 1 ≤ onbIndex E.kind E.deg i ∧ onbIndex E.kind E.deg i ≤ E.deg :=
  onbIndex_bounds hE.notPoly hE.twoLe hE.prime i

theorem ExtField.NormalBasis.testBit_unitAt (hh : h < E.deg) :
    (E.unitAt v).testBit h = decide (onbIndex E.kind E.deg h = v) := by
  rw [ExtField.unitAt, testBit_bitString, hE.getD hh, decide_eq_true hh, Bool.true_and, beq_eq_decide]

theorem ExtField.NormalBasis.mul_eq : E.mul = E.onbMul := by
  funext a b
  cases hk : E.kind with
  | poly => exact absurd hk hE.notPoly
  | onb1 | onb2 => simp only [ExtField.mul, hk]

end Basis

/-! ### Products of basis elements -/

/-- A number below twice the modulus is reduced by at most one subtraction. -/
theorem mod_of_lt_two_mul {x p : Nat} (hx : x < 2 * p) : (x < p ∧ x % p = x) ∨ (p ≤ x ∧ x % p = x - p) := by
  rcases Nat.lt_or_ge x p with hlt | hge
  · exact .inl ⟨hlt, Nat.mod_eq_of_lt hlt⟩
  · exact .inr ⟨hge, by rw [Nat.mod_eq_sub_mod hge, Nat.mod_eq_of_lt (by omega)]⟩

theorem ExtField.NormalBasis.onbTerm_onb1 (hE : E.NormalBasis) (hk : E.kind = .onb1) (hi : i < E.deg) (hj : j < E.deg) :
    E.onbTerm i j = if (onbIndex .onb1 E.deg i + onbIndex .onb1 E.deg j) % (E.deg + 1) = 0 then 2 ^ E.deg - 1
      else E.unitAt ((onbIndex .onb1 E.deg i + onbIndex .onb1 E.deg j) % (E.deg + 1)) := by
  simp only [ExtField.onbTerm, hE.getD hi, hE.getD hj, hk]
  rfl

theorem ExtField.NormalBasis.onbTerm_onb2 (hE : E.NormalBasis) (hk : E.kind = .onb2) (hi : i < E.deg) (hj : j < E.deg)
    {sum diff : Nat} (hs : sum = (onbIndex .onb2 E.deg i + onbIndex .onb2 E.deg j) % (2 * E.deg + 1))
    (hd : diff = (onbIndex .onb2 E.deg i + (2 * E.deg + 1) - onbIndex .onb2 E.deg j) % (2 * E.deg + 1)) :
    E.onbTerm i j = (if sum = 0 then 0 else E.unitAt (plusMinus (2 * E.deg + 1) sum))
      ^^^ (if diff = 0 then 0 else E.unitAt (plusMinus (2 * E.deg + 1) diff)) := by
  subst hs hd
  simp only [ExtField.onbTerm, hE.getD hi, hE.getD hj, hk]
  rfl

/-- Type I: the index of `k_i + k_j`, or every coordinate (R232). -/
theorem ExtField.NormalBasis.testBit_onbTerm_onb1 (hE : E.NormalBasis) (hk : E.kind = .onb1) (hi : i < E.deg) (hj : j < E.deg)
    (hh : h < E.deg) : (E.onbTerm i j).testBit h = E.basisProduct i j h := by
  have hkh := hE.index_bounds h
  have hunit := hE.testBit_unitAt (v := (onbIndex E.kind E.deg i + onbIndex E.kind E.deg j) % (E.deg + 1)) hh
  rw [hE.onbTerm_onb1 hk hi hj]
  simp only [ExtField.basisProduct]
  simp only [hk, onbPrime_onb1] at hkh hunit ⊢
  have hmod : onbIndex .onb1 E.deg h % (E.deg + 1) = onbIndex .onb1 E.deg h := Nat.mod_eq_of_lt (by omega)
  rw [hmod]
  split
  · rename_i hzero
    simp [hzero, Nat.testBit_two_pow_sub_one, hh]
  · rename_i hne
    rw [hunit, beq_false_of_ne hne, Bool.false_or, beq_eq_decide]

/-- One of the two units of type II: the index of `±v` (R232). -/
theorem ExtField.NormalBasis.testBit_plusMinus (hE : E.NormalBasis) (hk : E.kind = .onb2) (hv : v < 2 * E.deg + 1)
    (hh : h < E.deg) : (if v = 0 then 0 else E.unitAt (plusMinus (2 * E.deg + 1) v)).testBit h
      = decide (onbIndex .onb2 E.deg h = v ∨ onbIndex .onb2 E.deg h + v = 2 * E.deg + 1) := by
  have hkh := hE.index_bounds h
  have hunit := hE.testBit_unitAt (v := plusMinus (2 * E.deg + 1) v) hh
  rw [hk] at hkh hunit
  split
  · rw [Nat.zero_testBit]
    symm
    rw [decide_eq_false_iff_not]
    omega
  · rw [hunit]
    refine decide_eq_decide.2 ?_
    unfold plusMinus
    omega

/-- Type II: the indices of `±(k_i + k_j)` and `±(k_i − k_j)` (R232). -/
theorem ExtField.NormalBasis.testBit_onbTerm_onb2 (hE : E.NormalBasis) (hk : E.kind = .onb2) (hi : i < E.deg) (hj : j < E.deg)
    (hh : h < E.deg) : (E.onbTerm i j).testBit h = E.basisProduct i j h := by
  have hki := hE.index_bounds i
  have hkj := hE.index_bounds j
  have hkh := hE.index_bounds h
  rw [hE.onbTerm_onb2 hk hi hj rfl rfl]
  simp only [ExtField.basisProduct]
  simp only [hk, onbPrime_onb2] at hki hkj hkh ⊢
  rw [Nat.testBit_xor, hE.testBit_plusMinus hk (Nat.mod_lt _ (by omega)) hh,
    hE.testBit_plusMinus hk (Nat.mod_lt _ (by omega)) hh]
  generalize onbIndex .onb2 E.deg i = ki at *
  generalize onbIndex .onb2 E.deg j = kj at *
  generalize onbIndex .onb2 E.deg h = kh at *
  generalize E.deg = n at *
  have hsmall (x : Nat) (hx : x < 2 * n + 1) : x % (2 * n + 1) = x := Nat.mod_eq_of_lt hx
  have htriple := mod_of_lt_two_mul (x := kh + ki + kj) (p := 2 * n + 1) (by omega)
  have hdiff := mod_of_lt_two_mul (x := ki + (2 * n + 1) - kj) (p := 2 * n + 1) (by omega)
  have hsumIff : (kh = ki + kj ∨ kh + (ki + kj) = 2 * n + 1) ↔ (kh = ki + kj ∨ (kh + ki + kj) % (2 * n + 1) = 0) := by
    omega
  have hdiffIff : (kh = (ki + (2 * n + 1) - kj) % (2 * n + 1) ∨ kh + (ki + (2 * n + 1) - kj) % (2 * n + 1) = 2 * n + 1)
      ↔ (kh + kj = ki ∨ kh + ki = kj) := by
    omega
  rw [hsmall (ki + kj) (by omega), hsmall kh (by omega), hsmall (kh + kj) (by omega), hsmall (kh + ki) (by omega),
    hsmall ki (by omega), hsmall kj (by omega)]
  simp only [hsumIff, hdiffIff, Bool.decide_or]
  rfl

/-- The coordinates of `β^(2^i) · β^(2^j)` are those the index map gives (R232). -/
theorem ExtField.NormalBasis.testBit_onbTerm (hE : E.NormalBasis) (hi : i < E.deg) (hj : j < E.deg) (hh : h < E.deg) :
    (E.onbTerm i j).testBit h = E.basisProduct i j h := by
  cases hk : E.kind with
  | poly => exact absurd hk hE.notPoly
  | onb1 => exact hE.testBit_onbTerm_onb1 hk hi hj hh
  | onb2 => exact hE.testBit_onbTerm_onb2 hk hi hj hh

/-! ### Linearity -/

theorem xorSum_xor (n : Nat) (f g : Nat → Nat) : xorSum n (fun i => f i ^^^ g i) = xorSum n f ^^^ xorSum n g := by
  induction n with
  | zero => exact (Nat.xor_self 0).symm
  | succ n ih =>
    simp only [xorSum, ih]
    ac_rfl

/-- A sum over the bits of a factor is linear in it. -/
theorem xorSum_testBit_xor (n x y : Nat) (g : Nat → Nat) :
    xorSum n (fun i => if (x ^^^ y).testBit i then g i else 0)
      = xorSum n (fun i => if x.testBit i then g i else 0) ^^^ xorSum n (fun i => if y.testBit i then g i else 0) := by
  rw [← xorSum_xor]
  congr 1
  funext i
  rw [Nat.testBit_xor]
  cases x.testBit i <;> cases y.testBit i <;> simp

theorem ExtField.onbMul_xor_left (E : ExtField) (x y z : Nat) : E.onbMul (x ^^^ y) z = E.onbMul x z ^^^ E.onbMul y z :=
  xorSum_testBit_xor _ x y _

theorem ExtField.onbMul_xor_right (E : ExtField) (x y z : Nat) : E.onbMul x (y ^^^ z) = E.onbMul x y ^^^ E.onbMul x z := by
  simp only [ExtField.onbMul, xorSum_testBit_xor]
  rw [← xorSum_xor]
  congr 1
  funext i
  cases x.testBit i <;> simp

theorem xorSum_testBit_two_pow (hi : i < n) (g : Nat → Nat) :
    xorSum n (fun k => if (2 ^ i).testBit k then g k else 0) = g i := by
  rw [xorSum_single hi fun k _ hne => ?_, Nat.testBit_two_pow_self, if_pos rfl]
  rw [Nat.testBit_two_pow_of_ne hne.symm]
  rfl

theorem ExtField.onbMul_two_pow (hi : i < E.deg) (hj : j < E.deg) : E.onbMul (2 ^ i) (2 ^ j) = E.onbTerm i j := by
  rw [ExtField.onbMul, xorSum_testBit_two_pow hi, xorSum_testBit_two_pow hj]

end NormalBases

/-! ### The statement -/

/-- Settles O37: the checks in order, then one store; the remainder is congruent to the product, and the normal-basis product is
the sum of the products of basis elements. -/
theorem efAddAndEfMulStoreTheirElement : Obligations.EfAddAndEfMulStoreTheirElement := by
  unfold Obligations.EfAddAndEfMulStoreTheirElement
  intro s dst a b c i f hi hok
  refine Outcome.and_of_head ?_ fun hv => ⟨fun hk x y => ?_, fun hk => ?_⟩
  · rcases hi with ⟨rfl, rfl⟩ | ⟨rfl, rfl⟩
    · exact efBinary_outcome (f := fun _ x y => x ^^^ y) rfl rfl fun x y _ hx hy => Nat.xor_lt_two_pow hx hy
    · exact efBinary_outcome (f := ExtField.mul) rfl rfl fun x y hv _ _ =>
        ExtField.mul_lt (ExtField.bounds_of_ok hok hv).2 x y
  · have hmul : (s.efc c).mul x y = polyMod (clmul x y) (s.efc c).poly := by simp only [ExtField.mul, hk]
    exact ⟨ExtField.mul_lt (ExtField.bounds_of_ok hok hv).2 x y, hmul ▸ polyDvd_xor_polyMod _ _⟩
  · have hE := ExtField.normalBasis_of_ok hok hv hk
    rw [hE.mul_eq]
    refine ⟨fun x y z => ⟨ExtField.onbMul_lt _ x y, ExtField.onbMul_xor_left _ x y z, ExtField.onbMul_xor_right _ x y z⟩,
      fun i j h hi hj hh => ?_⟩
    rw [ExtField.onbMul_two_pow hi hj, hE.testBit_onbTerm hi hj hh]

end Sys2Proof.Machine

/-! ## Contexts as fields of `2^n` elements (43_ext_field R231, R232)

The elements of a configured context are the elements of a field of `2^n` elements, sums and products included: the classes modulo an
irreducible polynomial, or the sums of conjugates `β^(2^i)` inside an algebraic closure. What R237 to R242 say of results then
follows from `x^(2^n) = x`, once for all bases. -/

namespace Sys2Proof.Machine

set_option Elab.async false

/-- `φ` carries the `n`-bit elements of a context to the elements `x = x^(2^n)` of a field, one to one, with their sum, product
and one. -/
structure ExtField.Represents (E : ExtField) {K : Type} [Field K] (φ : Nat → K) : Prop where
  xor : ∀ a b, φ (a ^^^ b) = φ a + φ b
  mul : ∀ a b, φ (E.mul a b) = φ a * φ b
  one : φ E.one = 1
  inj : ∀ a b, a < 2 ^ E.deg → b < 2 ^ E.deg → φ a = φ b → a = b
  pow_card : ∀ a, φ a ^ 2 ^ E.deg = φ a

section Models

variable {E : ExtField} {K : Type} [Field K] {φ : Nat → K} {n : Nat}

/-! ### Polynomial bases -/

theorem residue_xor (f a b : Nat) : residue f (a ^^^ b) = residue f a + residue f b := by
  rw [residue, gf2Poly_xor, map_add]
  rfl

/-- A polynomial basis: the classes modulo the context's polynomial (R231). -/
theorem ExtField.represents_residue [Fact (Irreducible (gf2Poly E.poly))] (hk : E.kind = .poly)
    (hlen : bitLen E.poly = E.deg + 1) (hP : PolyIrreducible E.poly) : E.Represents (residue E.poly) where
  xor := residue_xor E.poly
  mul a b := by simp only [ExtField.mul, hk, residue_polyMod, residue_clmul]
  one := by simp only [ExtField.one, hk, residue_one]
  inj a b ha hb h := eq_of_residue_eq hlen ha hb h
  pow_card a := residue_pow_card hlen hP _

/-! ### Images that are fields -/

section Image

variable {mul : Nat → Nat → Nat} {one : Nat}

/-- The image of a map that carries exclusive or, a product and a one to those of a field. -/
def imageRing [CharP K 2] (φ : Nat → K) (hxor : ∀ a b, φ (a ^^^ b) = φ a + φ b) (hmul : ∀ a b, φ (mul a b) = φ a * φ b)
    (hone : φ one = 1) : Subring K where
  carrier := Set.range φ
  mul_mem' := by
    rintro _ _ ⟨a, rfl⟩ ⟨b, rfl⟩
    exact ⟨mul a b, hmul a b⟩
  one_mem' := ⟨one, hone⟩
  add_mem' := by
    rintro _ _ ⟨a, rfl⟩ ⟨b, rfl⟩
    exact ⟨a ^^^ b, hxor a b⟩
  zero_mem' := ⟨0 ^^^ 0, (hxor 0 0).trans (CharTwo.add_self_eq_zero _)⟩
  neg_mem' := by
    rintro _ ⟨a, rfl⟩
    exact ⟨a, (CharTwo.neg_eq _).symm⟩

/-- A finite domain of characteristic 2 has `2^d` elements, each its own power `2^d`. -/
theorem exists_card_eq_two_pow (R : Type) [CommRing R] [IsDomain R] [Finite R] [CharP R 2] :
    ∃ d, 0 < d ∧ Nat.card R = 2 ^ d ∧ ∀ x : R, x ^ 2 ^ d = x := by
  let := (Finite.isField_of_domain R).toField
  let := Fintype.ofFinite R
  obtain ⟨d, -, hcard⟩ := FiniteField.card R 2
  refine ⟨d, d.pos, Nat.card_eq_fintype_card.trans hcard, fun x => ?_⟩
  rw [← hcard]
  exact FiniteField.pow_card x

theorem mem_imageRing [CharP K 2] (hxor : ∀ a b, φ (a ^^^ b) = φ a + φ b) (hmul : ∀ a b, φ (mul a b) = φ a * φ b)
    (hone : φ one = 1) (x : K) : x ∈ imageRing φ hxor hmul hone ↔ ∃ a, φ a = x := Iff.rfl

/-- Where the image of `n`-bit numbers is a ring, and `x ↦ x^(2^d)` moves an element of it for every `d` from 1 to `n − 1`, the
image is a field of `2^n` elements: a smaller one would have its elements fixed by a smaller `d`. -/
theorem injective_of_conjugates [CharP K 2] {S : Subring K} (hS : ∀ x, x ∈ S ↔ ∃ a, φ a = x)
    (hlow : ∀ a, φ (a % 2 ^ n) = φ a) {b : Nat} (hb : ∀ d, 0 < d → d < n → φ b ^ 2 ^ d ≠ φ b) :
    (∀ a, φ a ^ 2 ^ n = φ a) ∧ ∀ a b, a < 2 ^ n → b < 2 ^ n → φ a = φ b → a = b := by
  have hmem (a : Nat) : φ a ∈ S := (hS _).2 ⟨a, rfl⟩
  have hsurj : Function.Surjective fun a : Fin (2 ^ n) => (⟨φ a, hmem a⟩ : S) := by
    rintro ⟨x, hx⟩
    obtain ⟨a, rfl⟩ := (hS x).1 hx
    exact ⟨⟨a % 2 ^ n, Nat.mod_lt _ (Nat.two_pow_pos n)⟩, Subtype.ext (hlow a)⟩
  have hfin : Finite S := .of_surjective _ hsurj
  have hchar : CharP S 2 := S.subtype.charP S.subtype_injective 2
  obtain ⟨d, hd, hcard, hpow⟩ := exists_card_eq_two_pow S
  have hpowφ (a : Nat) : φ a ^ 2 ^ d = φ a := congrArg Subtype.val (hpow ⟨φ a, hmem a⟩)
  have hle : 2 ^ d ≤ 2 ^ n := by
    rw [← hcard, ← Nat.card_fin (2 ^ n)]
    exact Nat.card_le_card_of_surjective _ hsurj
  obtain rfl : d = n := by
    by_contra hne
    exact hb d hd (lt_of_le_of_ne ((Nat.pow_le_pow_iff_right Nat.one_lt_two).1 hle) hne) (hpowφ b)
  have hinj := ((Nat.bijective_iff_surjective_and_card _).2 ⟨hsurj, (Nat.card_fin _).trans hcard.symm⟩).1
  exact ⟨hpowφ, fun a b ha hb h => congrArg Fin.val (@hinj ⟨a, ha⟩ ⟨b, hb⟩ (Subtype.ext h))⟩

end Image

/-! ### Sums of conjugates -/

section Conjugates

variable {β : K} {kind : Kind} {γ : K} {p v w : Nat}

/-- `Σ a_i β^(2^i)`, what the coordinates of an element stand for in a normal basis (R232). -/
def normalSum (β : K) (n a : Nat) : K := ∑ i ∈ Finset.range n, if a.testBit i then β ^ 2 ^ i else 0

theorem normalSum_xor [CharP K 2] (β : K) (n a b : Nat) :
    normalSum β n (a ^^^ b) = normalSum β n a + normalSum β n b := by
  rw [normalSum, normalSum, normalSum, ← Finset.sum_add_distrib]
  refine Finset.sum_congr rfl fun i _ => ?_
  rw [Nat.testBit_xor]
  cases a.testBit i <;> cases b.testBit i <;> simp [CharTwo.add_self_eq_zero]

/-- Only the first `n` bits count. -/
theorem normalSum_mod (β : K) (n a : Nat) : normalSum β n (a % 2 ^ n) = normalSum β n a := by
  refine Finset.sum_congr rfl fun i hi => ?_
  rw [Nat.testBit_mod_two_pow, decide_eq_true (Finset.mem_range.1 hi), Bool.true_and]

@[simp] theorem normalSum_zero (β : K) (n : Nat) : normalSum β n 0 = 0 := by
  simp [normalSum]

theorem normalSum_one (β : K) (hn : 0 < n) : normalSum β n 1 = β := by
  rw [normalSum, Finset.sum_eq_single_of_mem 0 (Finset.mem_range.2 hn) fun i _ hi => ?_]
  · simp
  · simp [Nat.testBit_lt_two_pow (Nat.one_lt_two_pow hi)]

theorem normalSum_allOnes (β : K) (n : Nat) : normalSum β n (2 ^ n - 1) = ∑ i ∈ Finset.range n, β ^ 2 ^ i := by
  refine Finset.sum_congr rfl fun i hi => ?_
  rw [Nat.testBit_two_pow_sub_one, decide_eq_true (Finset.mem_range.1 hi), if_pos rfl]

/-- A map that carries exclusive or to the sum carries sums over GF(2). -/
theorem map_xorSum [CharP K 2] (hxor : ∀ a b, φ (a ^^^ b) = φ a + φ b) (m : Nat) (g : Nat → Nat) :
    φ (xorSum m g) = ∑ i ∈ Finset.range m, φ (g i) := by
  induction m with
  | zero => exact (hxor 0 0).trans (CharTwo.add_self_eq_zero _)
  | succ m ih => rw [xorSum, hxor, ih, Finset.sum_range_succ]

/-! ### Values of the index map -/

/-- What index-map value `v` stands for, `γ` a root of unity of the basis's prime order: `γ^v`, and `γ^v + γ^(−v)` in type II
(R232). -/
def onbValue (kind : Kind) (γ : K) (v : Nat) : K :=
  match kind with
  | .poly => 0
  | .onb1 => γ ^ v
  | .onb2 => γ ^ v + γ⁻¹ ^ v

theorem onbValue_sq [CharP K 2] (kind : Kind) (γ : K) (v : Nat) : onbValue kind γ v ^ 2 = onbValue kind γ (2 * v) := by
  cases kind with
  | poly => simp [onbValue]
  | onb1 => simp only [onbValue, ← pow_mul, Nat.mul_comm v]
  | onb2 => simp only [onbValue, CharTwo.add_sq, ← pow_mul, Nat.mul_comm v]

theorem onbValue_two_pow [CharP K 2] (kind : Kind) (γ : K) (i : Nat) :
    onbValue kind γ (2 ^ i) = onbValue kind γ 1 ^ 2 ^ i := by
  induction i with
  | zero => simp
  | succ i ih => rw [Nat.pow_succ', ← onbValue_sq, ih, ← pow_mul, Nat.mul_comm]

theorem onbValue_mod (kind : Kind) (hγ : γ ^ p = 1) (v : Nat) : onbValue kind γ (v % p) = onbValue kind γ v := by
  have hinv : γ⁻¹ ^ p = 1 := by rw [inv_pow, hγ, inv_one]
  cases kind with
  | poly => rfl
  | onb1 => exact (pow_eq_pow_mod v hγ).symm
  | onb2 => simp only [onbValue, ← pow_eq_pow_mod v hγ, ← pow_eq_pow_mod v hinv]

/-- `±v` stand for one value in type II. -/
theorem onbValue_plusMinus (hγ : γ ^ p = 1) (hv : v ≤ p) : onbValue .onb2 γ (plusMinus p v) = onbValue .onb2 γ v := by
  rcases Nat.le_total v (p - v) with hle | hle
  · rw [plusMinus, Nat.min_eq_left hle]
  · have hmul : γ ^ (p - v) * γ ^ v = 1 := by rw [← pow_add, Nat.sub_add_cancel hv, hγ]
    have hneg := eq_inv_of_mul_eq_one_left hmul
    simp only [plusMinus, Nat.min_eq_right hle, onbValue, inv_pow, hneg, inv_inv]
    exact add_comm _ _

/-- Index `i` stands for the conjugate `β^(2^i)`. -/
theorem onbValue_onbIndex [CharP K 2] (hk : kind ≠ .poly) (hγ : IsPrimitiveRoot γ (onbPrime kind n)) (hp : (onbPrime kind n).Prime)
    (i : Nat) : onbValue kind γ (onbIndex kind n i) = onbValue kind γ 1 ^ 2 ^ i := by
  rw [← onbValue_two_pow, ← onbValue_mod kind hγ.pow_eq_one (2 ^ i)]
  cases kind with
  | poly => exact absurd rfl hk
  | onb1 => rfl
  | onb2 => exact onbValue_plusMinus hγ.pow_eq_one (Nat.mod_lt _ hp.pos).le

/-- Different values of the index map stand for different elements. -/
theorem onbValue_inj (hk : kind ≠ .poly) (hγ : IsPrimitiveRoot γ (onbPrime kind n)) (hv : 1 ≤ v ∧ v ≤ n) (hw : 1 ≤ w ∧ w ≤ n)
    (h : onbValue kind γ v = onbValue kind γ w) : v = w := by
  cases kind with
  | poly => exact absurd rfl hk
  | onb1 =>
    rw [onbPrime_onb1] at hγ
    exact hγ.pow_inj (by omega) (by omega) h
  | onb2 =>
    rw [onbPrime_onb2] at hγ
    have hne : γ ≠ 0 := hγ.ne_zero (by omega)
    have hfactor : (γ ^ v - γ ^ w) * (γ ^ (v + w) - 1) = 0 := by
      have hclear : (γ ^ v + (γ ^ v)⁻¹) * (γ ^ v * γ ^ w) = (γ ^ w + (γ ^ w)⁻¹) * (γ ^ v * γ ^ w) := by
        simp only [onbValue, inv_pow] at h
        rw [h]
      have hv0 : γ ^ v ≠ 0 := pow_ne_zero _ hne
      have hw0 : γ ^ w ≠ 0 := pow_ne_zero _ hne
      field_simp at hclear
      rw [pow_add]
      linear_combination hclear
    rcases mul_eq_zero.1 hfactor with heq | hone
    · exact hγ.pow_inj (by omega) (by omega) (sub_eq_zero.1 heq)
    · have hdvd := (hγ.pow_eq_one_iff_dvd _).1 (sub_eq_zero.1 hone)
      exact absurd (Nat.le_of_dvd (by omega) hdvd) (by omega)

/-- The nontrivial roots of unity sum to 1, alone or in pairs `γ^v + γ^(−v)`. -/
theorem sum_onbValue [CharP K 2] (hk : kind ≠ .poly) (hn : 2 ≤ n) (hγ : IsPrimitiveRoot γ (onbPrime kind n)) :
    ∑ v ∈ Finset.Icc 1 n, onbValue kind γ v = 1 := by
  have hshift (f : Nat → K) : ∑ v ∈ Finset.Icc 1 n, f v = ∑ i ∈ Finset.range n, f (i + 1) := by
    rw [Finset.range_eq_Ico, Finset.sum_Ico_add' f 0 n 1]
    rfl
  rw [hshift]
  cases kind with
  | poly => exact absurd rfl hk
  | onb1 =>
    have hsum := hγ.geom_sum_eq_zero (by rw [onbPrime_onb1]; omega)
    rw [onbPrime_onb1, Finset.sum_range_succ', pow_zero] at hsum
    exact CharTwo.add_eq_zero.1 hsum
  | onb2 =>
    have hsum := hγ.geom_sum_eq_zero (by rw [onbPrime_onb2]; omega)
    have hp := hγ.pow_eq_one
    rw [onbPrime_onb2] at hp hsum
    have hneg : ∀ i ∈ Finset.range n, γ⁻¹ ^ (i + 1) = γ ^ (n + 1 + (n - 1 - i)) := fun i hi => by
      have hi := Finset.mem_range.1 hi
      rw [inv_pow]
      refine (eq_inv_of_mul_eq_one_left ?_).symm
      rw [← pow_add, show n + 1 + (n - 1 - i) + (i + 1) = 2 * n + 1 by omega, hp]
    rw [show 2 * n + 1 = n + 1 + n by omega, Finset.sum_range_add, Finset.sum_range_succ', pow_zero] at hsum
    simp only [onbValue, Finset.sum_add_distrib]
    rw [Finset.sum_congr rfl hneg, Finset.sum_range_reflect (fun j => γ ^ (n + 1 + j)) n]
    refine CharTwo.add_eq_zero.1 ?_
    rw [← hsum]
    ring

end Conjugates

/-! ### Normal bases -/

section NormalBasisField

variable [CharP K 2] {γ : K} {i j v : Nat} (hE : E.NormalBasis) (hγ : IsPrimitiveRoot γ (onbPrime E.kind E.deg))
include hE hγ

theorem ExtField.NormalBasis.onbValue_index (i : Nat) :
    onbValue E.kind γ (onbIndex E.kind E.deg i) = onbValue E.kind γ 1 ^ 2 ^ i :=
  onbValue_onbIndex hE.notPoly hγ hE.prime i

theorem ExtField.NormalBasis.normalSum_unitAt (hv : 1 ≤ v ∧ v ≤ E.deg) :
    normalSum (onbValue E.kind γ 1) E.deg (E.unitAt v) = onbValue E.kind γ v := by
  obtain ⟨i, hi, rfl⟩ := hE.index_bijOn.surjOn (Finset.mem_coe.2 (Finset.mem_Icc.2 hv))
  have hi := Finset.mem_range.1 hi
  rw [normalSum, Finset.sum_eq_single_of_mem i (Finset.mem_range.2 hi) fun j hj hne => ?_]
  · rw [hE.testBit_unitAt hi, decide_eq_true rfl, if_pos rfl, hE.onbValue_index hγ]
  · have hj := Finset.mem_range.1 hj
    rw [hE.testBit_unitAt hj, decide_eq_false fun h => hne (hE.index_inj hj hi h)]
    rfl

theorem ExtField.NormalBasis.normalSum_allOnes : normalSum (onbValue E.kind γ 1) E.deg (2 ^ E.deg - 1) = 1 := by
  rw [Machine.normalSum_allOnes, ← sum_onbValue hE.notPoly hE.twoLe hγ]
  exact Finset.sum_nbij _ hE.index_bijOn.mapsTo hE.index_bijOn.injOn hE.index_bijOn.surjOn fun i _ =>
    (hE.onbValue_index hγ i).symm

/-- Type I: `γ^k_i · γ^k_j = γ^(k_i + k_j)` (R232). -/
theorem ExtField.NormalBasis.normalSum_onbTerm_onb1 (hk : E.kind = .onb1) (hi : i < E.deg) (hj : j < E.deg) :
    normalSum (onbValue E.kind γ 1) E.deg (E.onbTerm i j)
      = onbValue E.kind γ (onbIndex E.kind E.deg i) * onbValue E.kind γ (onbIndex E.kind E.deg j) := by
  have hunit (v : Nat) (hv : 1 ≤ v ∧ v ≤ E.deg) := hE.normalSum_unitAt hγ hv
  have hones := hE.normalSum_allOnes hγ
  have hp := hγ.pow_eq_one
  rw [hE.onbTerm_onb1 hk hi hj]
  simp only [hk, onbPrime_onb1] at hunit hones hp ⊢
  generalize onbIndex .onb1 E.deg i = ki
  generalize onbIndex .onb1 E.deg j = kj
  have hprod : onbValue .onb1 γ ki * onbValue .onb1 γ kj = onbValue .onb1 γ ((ki + kj) % (E.deg + 1)) := by
    rw [onbValue_mod .onb1 hp]
    exact (pow_add γ ki kj).symm
  have hlt : (ki + kj) % (E.deg + 1) < E.deg + 1 := Nat.mod_lt _ (Nat.succ_pos _)
  rw [hprod]
  split
  · rename_i hzero
    rw [hones, hzero]
    exact (pow_zero γ).symm
  · exact hunit _ (by omega)

/-- Type II: `(γ^k_i + γ^(−k_i)) · (γ^k_j + γ^(−k_j))` has the terms of `±(k_i + k_j)` and `±(k_i − k_j)` (R232). -/
theorem ExtField.NormalBasis.normalSum_onbTerm_onb2 (hk : E.kind = .onb2) (hi : i < E.deg) (hj : j < E.deg) :
    normalSum (onbValue E.kind γ 1) E.deg (E.onbTerm i j)
      = onbValue E.kind γ (onbIndex E.kind E.deg i) * onbValue E.kind γ (onbIndex E.kind E.deg j) := by
  have hunit (v : Nat) (hv : 1 ≤ v ∧ v ≤ E.deg) := hE.normalSum_unitAt hγ hv
  have hp := hγ.pow_eq_one
  obtain ⟨-, hkj⟩ := hE.index_bounds j
  rw [hE.onbTerm_onb2 hk hi hj rfl rfl]
  simp only [hk, onbPrime_onb2] at hunit hp hkj ⊢
  generalize onbIndex .onb2 E.deg i = ki
  generalize onbIndex .onb2 E.deg j = kj at *
  have hterm (v : Nat) (hv : v < 2 * E.deg + 1) :
      normalSum (onbValue .onb2 γ 1) E.deg (if v = 0 then 0 else E.unitAt (plusMinus (2 * E.deg + 1) v))
        = onbValue .onb2 γ v := by
    split
    · rename_i hzero
      rw [hzero, normalSum_zero]
      simp [onbValue, CharTwo.add_self_eq_zero]
    · rw [hunit _ (by unfold plusMinus; omega), onbValue_plusMinus hp hv.le]
  have hdiff : γ ^ (ki + (2 * E.deg + 1) - kj) = γ ^ ki * γ⁻¹ ^ kj := by
    have hne : γ ≠ 0 := hγ.ne_zero hE.prime.ne_zero
    rw [inv_pow, eq_mul_inv_iff_mul_eq₀ (pow_ne_zero _ hne), ← pow_add, Nat.sub_add_cancel (by omega), pow_add, hp, mul_one]
  have hdiffInv : γ⁻¹ ^ (ki + (2 * E.deg + 1) - kj) = γ⁻¹ ^ ki * γ ^ kj := by
    rw [inv_pow, hdiff, mul_inv, inv_pow, inv_pow, inv_inv]
  rw [normalSum_xor, hterm _ (Nat.mod_lt _ (by omega)), hterm _ (Nat.mod_lt _ (by omega)), onbValue_mod .onb2 hp,
    onbValue_mod .onb2 hp]
  simp only [onbValue, hdiff, hdiffInv, pow_add]
  ring

/-- The coordinates of `β^(2^i) · β^(2^j)` are those of the product (R232). -/
theorem ExtField.NormalBasis.normalSum_onbTerm (hi : i < E.deg) (hj : j < E.deg) :
    normalSum (onbValue E.kind γ 1) E.deg (E.onbTerm i j)
      = onbValue E.kind γ 1 ^ 2 ^ i * onbValue E.kind γ 1 ^ 2 ^ j := by
  rw [← hE.onbValue_index hγ i, ← hE.onbValue_index hγ j]
  cases hk : E.kind with
  | poly => exact absurd hk hE.notPoly
  | onb1 => exact hk ▸ hE.normalSum_onbTerm_onb1 hγ hk hi hj
  | onb2 => exact hk ▸ hE.normalSum_onbTerm_onb2 hγ hk hi hj

/-- The product of the context is that of the sums of conjugates. -/
theorem ExtField.NormalBasis.normalSum_mul (a b : Nat) :
    normalSum (onbValue E.kind γ 1) E.deg (E.mul a b)
      = normalSum (onbValue E.kind γ 1) E.deg a * normalSum (onbValue E.kind γ 1) E.deg b := by
  have hxor := normalSum_xor (onbValue E.kind γ 1) E.deg
  rw [hE.mul_eq, ExtField.onbMul, map_xorSum hxor, normalSum.eq_def _ _ a, normalSum.eq_def _ _ b, Finset.sum_mul_sum]
  refine Finset.sum_congr rfl fun i hi => ?_
  cases a.testBit i with
  | false => simp
  | true =>
    rw [if_pos rfl, if_pos rfl, map_xorSum hxor]
    refine Finset.sum_congr rfl fun j hj => ?_
    cases b.testBit j with
    | false => simp
    | true => exact hE.normalSum_onbTerm hγ (Finset.mem_range.1 hi) (Finset.mem_range.1 hj)

/-- A normal basis: the sums of conjugates (R232). The conjugates of `β` are distinct, so there are `2^n` of the sums. -/
theorem ExtField.NormalBasis.represents : E.Represents (normalSum (onbValue E.kind γ 1) E.deg) := by
  have hxor := normalSum_xor (onbValue E.kind γ 1) E.deg
  have hmul := hE.normalSum_mul hγ
  have hone : normalSum (onbValue E.kind γ 1) E.deg E.one = 1 := by
    have hE1 : E.one = 2 ^ E.deg - 1 := by
      cases hk : E.kind with
      | poly => exact absurd hk hE.notPoly
      | onb1 | onb2 => simp only [ExtField.one, hk]
    rw [hE1, hE.normalSum_allOnes hγ]
  have h2 := hE.twoLe
  have hconj (d : Nat) (hd : 0 < d) (hlt : d < E.deg) :
      normalSum (onbValue E.kind γ 1) E.deg 1 ^ 2 ^ d ≠ normalSum (onbValue E.kind γ 1) E.deg 1 := fun heq => by
    rw [normalSum_one _ (by omega), ← hE.onbValue_index hγ d] at heq
    have hzero := hE.onbValue_index hγ 0
    rw [pow_zero, pow_one] at hzero
    have hindex := onbValue_inj hE.notPoly hγ (hE.index_bounds d) (hE.index_bounds 0) (heq.trans hzero.symm)
    exact hd.ne' (hE.index_inj hlt (by omega) hindex)
  obtain ⟨hpow, hinj⟩ := injective_of_conjugates (mem_imageRing hxor hmul hone) (normalSum_mod _ _) hconj
  exact ⟨hxor, hmul, hone, hinj, hpow⟩

end NormalBasisField

end Models

end Sys2Proof.Machine

/-! ## What the results of the element commands satisfy (43_ext_field R237 to R242)

Root, inverse, half-trace and quadratic solver, proved once in the field a context represents. -/

namespace Sys2Proof.Machine

set_option Elab.async false

section Laws

variable {E : ExtField} {K : Type} [Field K] {φ : Nat → K} {n x y z : Nat}

/-! ### Every configured context represents a field -/

/-- The roots of unity a normal basis is made of exist, since its prime is odd. -/
theorem ExtField.NormalBasis.exists_primitiveRoot (hE : E.NormalBasis) :
    ∃ γ : AlgebraicClosure (ZMod 2), IsPrimitiveRoot γ (onbPrime E.kind E.deg) := by
  have hodd : ((onbPrime E.kind E.deg : Nat) : ZMod 2) ≠ 0 := by
    have h1 := two_pow_mod_onbPrime_pos hE.notPoly hE.twoLe hE.prime 1
    rw [Ne, ZMod.natCast_eq_zero_iff, Nat.prime_dvd_prime_iff_eq Nat.prime_two hE.prime]
    rintro heq
    simp [← heq] at h1
  have := NeZero.mk hodd
  exact HasEnoughRootsOfUnity.exists_primitiveRoot _ _

theorem ExtField.exists_represents {P : Params} (hok : E.ok P = true) (hv : E.valid = true)
    (hirr : E.kind = .poly → PolyIrreducible E.poly) :
    ∃ (K : Type) (_ : Field K) (_ : CharP K 2) (φ : Nat → K), E.Represents φ := by
  by_cases hk : E.kind = .poly
  · have := Fact.mk (polyIrreducible_iff.1 (hirr hk))
    exact ⟨AdjoinRoot (gf2Poly E.poly), inferInstance,
      charP_of_injective_algebraMap (algebraMap (ZMod 2) (AdjoinRoot (gf2Poly E.poly))).injective 2, _,
      E.represents_residue hk (ExtField.bounds_of_ok hok hv).2 (hirr hk)⟩
  · have hE := ExtField.normalBasis_of_ok hok hv hk
    obtain ⟨γ, hγ⟩ := hE.exists_primitiveRoot
    exact ⟨AlgebraicClosure (ZMod 2), inferInstance, inferInstance, _, hE.represents hγ⟩

/-! ### Squares in a normal basis (R237) -/

/-- The cyclic shift of `n` coordinates. -/
def rotateBits (n x : Nat) : Nat := bitString n (fun i => x.testBit ((i + n - 1) % n))

theorem normalSum_rotateBits [CharP K 2] {β : K} (hn : 0 < n) (hβ : β ^ 2 ^ n = β) (x : Nat) :
    normalSum β n (rotateBits n x) = normalSum β n x ^ 2 := by
  obtain ⟨m, rfl⟩ := Nat.exists_eq_add_of_lt hn
  rw [Nat.zero_add] at hβ ⊢
  have hbit (i : Nat) (hi : i < m + 1) : (rotateBits (m + 1) x).testBit i = x.testBit ((i + m) % (m + 1)) := by
    rw [rotateBits, testBit_bitString, decide_eq_true hi, Bool.true_and]
    rfl
  have hterm (i : Nat) : (if x.testBit i then β ^ 2 ^ i else 0) ^ 2 = if x.testBit i then β ^ 2 ^ (i + 1) else 0 := by
    cases x.testBit i <;> simp [← pow_mul, Nat.pow_succ]
  rw [normalSum, normalSum, CharTwo.sum_sq, Finset.sum_range_succ', Finset.sum_range_succ]
  congr 1
  · refine Finset.sum_congr rfl fun i hi => ?_
    have hi := Finset.mem_range.1 hi
    rw [hbit _ (by omega), hterm, show i + 1 + m = i + (m + 1) by omega, Nat.add_mod_right, Nat.mod_eq_of_lt (by omega)]
  · rw [hbit _ (by omega), hterm, hβ, Nat.zero_add, Nat.mod_eq_of_lt (by omega), pow_zero, pow_one]

/-- Squaring in a normal basis is the cyclic shift: the conjugates of `β` move by one place (R232, R237). -/
theorem ExtField.NormalBasis.sqr_eq_rotateBits (hE : E.NormalBasis) (x : Nat) : E.mul x x = rotateBits E.deg x := by
  obtain ⟨γ, hγ⟩ := hE.exists_primitiveRoot
  have hrep := hE.represents hγ
  have hpos : 0 < E.deg := by
    have := hE.twoLe
    omega
  have hβ := hrep.pow_card 1
  rw [normalSum_one _ hpos] at hβ
  refine hrep.inj _ _ (hE.mul_eq ▸ E.onbMul_lt x x) (bitString_lt _ _) ?_
  rw [hrep.mul, normalSum_rotateBits hpos hβ, sq]

theorem ExtField.NormalBasis.testBit_sqr (hE : E.NormalBasis) (x : Nat) {i : Nat} (hi : i < E.deg) :
    (E.mul x x).testBit i = x.testBit ((i + E.deg - 1) % E.deg) := by
  rw [hE.sqr_eq_rotateBits, rotateBits, testBit_bitString, decide_eq_true hi, Bool.true_and]

/-! ### Sums of conjugates of one element (R240 to R242) -/

section TraceSums

/-- `x + x^2 + … + x^(2^(k−1))`; the trace for `k = n` (R240). -/
def traceSum (k : Nat) (x : K) : K := ∑ i ∈ Finset.range k, x ^ 2 ^ i

theorem traceSum_succ (k : Nat) (x : K) : traceSum (k + 1) x = traceSum k x + x ^ 2 ^ k := Finset.sum_range_succ _ k

variable [CharP K 2]

theorem traceSum_succ_eq_sq_add (k : Nat) (x : K) : traceSum (k + 1) x = traceSum k x ^ 2 + x := by
  rw [traceSum, Finset.sum_range_succ', traceSum, CharTwo.sum_sq, pow_zero, pow_one]
  simp only [← pow_mul, Nat.pow_succ]

/-- The sum telescopes: `T^2 + T = x^(2^k) + x`. -/
theorem traceSum_sq_add_self (k : Nat) (x : K) : traceSum k x ^ 2 + traceSum k x = x ^ 2 ^ k + x := by
  have h := (traceSum_succ_eq_sq_add k x).symm.trans (traceSum_succ k x)
  linear_combination h + (traceSum k x - x) * CharTwo.two_eq_zero (R := K)

/-- Every second conjugate, and their squares, are all conjugates. -/
theorem sum_even_conjugates_sq_add_self (k : Nat) (x : K) :
    (∑ j ∈ Finset.range k, x ^ 2 ^ (2 * j)) ^ 2 + ∑ j ∈ Finset.range k, x ^ 2 ^ (2 * j) = traceSum (2 * k) x := by
  induction k with
  | zero => simp [traceSum]
  | succ k ih =>
    have hsq : (x ^ 2 ^ (2 * k)) ^ 2 = x ^ 2 ^ (2 * k + 1) := by rw [← pow_mul, Nat.pow_succ]
    rw [Finset.sum_range_succ, CharTwo.add_sq, hsq, Nat.mul_succ, traceSum_succ, traceSum_succ, ← ih]
    ring

/-- One round of the solver, `z` to `z^2 + w^2·c` and `w` to `w^2 + p`, keeps what `z^2 + z` is; `t` is the sum of conjugates of
`c`, and `q` is `p^(2^(k+1))`. -/
theorem solver_round_sq_add_self {z w t q c p : K} (hz : z ^ 2 + z = c * (w + p) + q * (t + c)) (hw : w ^ 2 + w = q + p) :
    (z ^ 2 + w ^ 2 * c) ^ 2 + (z ^ 2 + w ^ 2 * c) = c * (w ^ 2 + p + p) + q ^ 2 * (t ^ 2 + c + c) := by
  have hz2 := congrArg (· ^ 2) hz
  have hw2 := congrArg (· ^ 2) hw
  simp only [CharTwo.add_sq, mul_pow] at hz2 hw2
  linear_combination hz2 + c ^ 2 * hw2
    + (z ^ 2 * w ^ 2 * c - c * p - q ^ 2 * c + c ^ 2 * p ^ 2 + q ^ 2 * c ^ 2) * CharTwo.two_eq_zero (R := K)

end TraceSums

/-! ### Results -/

/-- The rounds of the solver stay among the elements. -/
theorem ExtField.solveRounds_lt (hlen : bitLen E.poly = E.deg + 1) (c : Nat) {p : Nat} (hp : p < 2 ^ E.deg) (k : Nat) :
    (E.solveRounds c p k).1 < 2 ^ E.deg ∧ (E.solveRounds c p k).2 < 2 ^ E.deg := by
  cases k with
  | zero => exact ⟨Nat.two_pow_pos _, hp⟩
  | succ k =>
    exact ⟨Nat.xor_lt_two_pow (ExtField.mul_lt hlen _ _) (ExtField.mul_lt hlen _ _),
      Nat.xor_lt_two_pow (ExtField.mul_lt hlen _ _) hp⟩

section Results

variable (hrep : E.Represents φ)
include hrep

theorem ExtField.Represents.frobenius (k x : Nat) : φ (repeatTimes (fun z => E.mul z z) k x) = φ x ^ 2 ^ k :=
  map_repeatTimes_sq hrep.mul x k

/-- `n − 1` squarings give the root (R239). -/
theorem ExtField.Represents.sqrt_mul_self (hlen : bitLen E.poly = E.deg + 1) (hn : 1 ≤ E.deg) (hx : x < 2 ^ E.deg)
    (hy : y = repeatTimes (fun z => E.mul z z) (E.deg - 1) x) : E.mul y y = x := by
  refine hrep.inj _ _ (ExtField.mul_lt hlen y y) hx ?_
  rw [hrep.mul, hy, hrep.frobenius, ← pow_add, ← Nat.two_mul, ← Nat.pow_succ', Nat.succ_eq_add_one, Nat.sub_add_cancel hn,
    hrep.pow_card]

variable [CharP K 2]

theorem ExtField.Represents.zero : φ 0 = 0 := (hrep.xor 0 0).trans (CharTwo.add_self_eq_zero _)

theorem ExtField.Represents.ne_zero (hx : x < 2 ^ E.deg) (h0 : x ≠ 0) : φ x ≠ 0 := fun h =>
  h0 (hrep.inj x 0 hx (Nat.two_pow_pos _) (h.trans hrep.zero.symm))

/-- Squares are different for different elements. -/
theorem ExtField.Represents.eq_of_sq_eq (hy : y < 2 ^ E.deg) (hz : z < 2 ^ E.deg) (h : E.mul z z = E.mul y y) : z = y := by
  have hsq : φ z * φ z = φ y * φ y := by rw [← hrep.mul, h, hrep.mul]
  refine hrep.inj z y hz hy ?_
  rcases mul_self_eq_mul_self_iff.1 hsq with heq | heq
  · exact heq
  · rwa [CharTwo.neg_eq] at heq

/-- Inverses are unique (R238). -/
theorem ExtField.Represents.inv_unique (hx : x < 2 ^ E.deg) (h0 : x ≠ 0) (hy : y < 2 ^ E.deg) (hz : z < 2 ^ E.deg)
    (h : E.mul x z = E.mul x y) : z = y :=
  hrep.inj z y hz hy (mul_left_cancel₀ (hrep.ne_zero hx h0) (by rw [← hrep.mul, h, hrep.mul]))

theorem ExtField.Represents.trace (x : Nat) :
    φ (xorSum E.deg (fun j => repeatTimes (fun z => E.mul z z) j x)) = traceSum E.deg (φ x) := by
  rw [map_xorSum hrep.xor]
  exact Finset.sum_congr rfl fun j _ => hrep.frobenius j x

/-- In the solver `w` runs through the sums of conjugates of the candidate (R242). -/
theorem ExtField.Represents.solveRounds_snd (c p k : Nat) : φ (E.solveRounds c p k).2 = traceSum (k + 1) (φ p) := by
  induction k with
  | zero => simp [ExtField.solveRounds, traceSum]
  | succ k ih =>
    have hsqr : φ (E.sqr (E.solveRounds c p k).2) = φ (E.solveRounds c p k).2 ^ 2 := (hrep.mul _ _).trans (sq _).symm
    rw [traceSum_succ_eq_sq_add, ← ih, ← hsqr]
    exact hrep.xor _ _

/-- What the rounds of the solver keep of `z` (R242). -/
theorem ExtField.Represents.solveRounds_fst (c p k : Nat) :
    φ (E.solveRounds c p k).1 ^ 2 + φ (E.solveRounds c p k).1
      = φ c * (traceSum (k + 1) (φ p) + φ p) + φ p ^ 2 ^ (k + 1) * (traceSum (k + 1) (φ c) + φ c) := by
  induction k with
  | zero => simp [ExtField.solveRounds, traceSum, hrep.zero, CharTwo.add_self_eq_zero]
  | succ k ih =>
    have hw := hrep.solveRounds_snd c p k
    have htel := traceSum_sq_add_self (k + 1) (φ p)
    have hstep : φ (E.solveRounds c p (k + 1)).1
        = φ (E.solveRounds c p k).1 ^ 2 + traceSum (k + 1) (φ p) ^ 2 * φ c := by
      rw [← hw, sq, sq, ← hrep.mul, ← hrep.mul, ← hrep.mul, ← hrep.xor]
      rfl
    have hconj : φ p ^ 2 ^ (k + 1 + 1) = (φ p ^ 2 ^ (k + 1)) ^ 2 := by rw [← pow_mul, Nat.pow_succ 2 (k + 1)]
    rw [hstep, traceSum_succ_eq_sq_add (k + 1), traceSum_succ_eq_sq_add (k + 1), hconj]
    exact solver_round_sq_add_self ih htel

variable (hlen : bitLen E.poly = E.deg + 1)
include hlen

/-- `x^(2^n − 2)` is the inverse (R238). -/
theorem ExtField.Represents.mul_inv (hn : 2 ≤ E.deg) (hx : x < 2 ^ E.deg) (h0 : x ≠ 0) :
    E.mul x (E.pow x (2 ^ E.deg - 2)) = E.one := by
  have h4 : 2 ^ 2 ≤ 2 ^ E.deg := Nat.pow_le_pow_right Nat.two_pos hn
  refine hrep.inj _ _ (ExtField.mul_lt hlen _ _) (ExtField.one_lt hn) (mul_left_cancel₀ (hrep.ne_zero hx h0) ?_)
  have hpow : φ (E.pow x (2 ^ E.deg - 2)) = φ x ^ (2 ^ E.deg - 2) := map_power hrep.mul hrep.one x _
  rw [hrep.mul, hrep.one, mul_one, hpow, ← pow_succ', ← pow_succ', show 2 ^ E.deg - 2 + 1 + 1 = 2 ^ E.deg by omega,
    hrep.pow_card]

/-- The half-trace solves `y^2 + y = x + Tr(x)` for odd `n` (R241). -/
theorem ExtField.Represents.halfTrace_sq_add_self (hodd : E.deg % 2 = 1) (hx : x < 2 ^ E.deg)
    (hy : y = xorSum ((E.deg - 1) / 2 + 1) (fun j => repeatTimes (fun z => E.mul z z) (2 * j) x)) :
    E.mul y y ^^^ y = x ^^^ xorSum E.deg (fun j => repeatTimes (fun z => E.mul z z) j x) := by
  have hfrob (k : Nat) : repeatTimes (fun z => E.mul z z) k x < 2 ^ E.deg :=
    repeatTimes_lt (fun z => ExtField.mul_lt hlen z z) hx k
  have hylt : y < 2 ^ E.deg := hy ▸ xorSum_lt fun j _ => hfrob (2 * j)
  refine hrep.inj _ _ (Nat.xor_lt_two_pow (ExtField.mul_lt hlen y y) hylt)
    (Nat.xor_lt_two_pow hx (xorSum_lt fun j _ => hfrob j)) ?_
  have hφy : φ y = ∑ j ∈ Finset.range ((E.deg - 1) / 2 + 1), φ x ^ 2 ^ (2 * j) := by
    rw [hy, map_xorSum hrep.xor]
    exact Finset.sum_congr rfl fun j _ => hrep.frobenius _ x
  rw [hrep.xor, hrep.mul, ← sq, hφy, sum_even_conjugates_sq_add_self,
    show 2 * ((E.deg - 1) / 2 + 1) = E.deg + 1 by omega, traceSum_succ, hrep.pow_card, hrep.xor, hrep.trace, add_comm]

/-- Where the rounds end with `w ≠ 0`, `z` solves `z^2 + z = c` for `c` of trace 0 (R242). -/
theorem ExtField.Represents.solveRounds_sq_add_self (hn : 1 ≤ E.deg) {c p : Nat} (hc : c < 2 ^ E.deg) (hp : p < 2 ^ E.deg)
    (htr : E.trace c = 0) (hw : (E.solveRounds c p (E.deg - 1)).2 ≠ 0)
    (hz : z = (E.solveRounds c p (E.deg - 1)).1) : E.mul z z ^^^ z = c := by
  obtain ⟨hzlt, hwlt⟩ := E.solveRounds_lt hlen c hp (E.deg - 1)
  refine hrep.inj _ _ (Nat.xor_lt_two_pow (ExtField.mul_lt hlen z z) (hz ▸ hzlt)) hc ?_
  have hφw := hrep.ne_zero hwlt hw
  have hinv := hrep.solveRounds_fst c p (E.deg - 1)
  have htrc : traceSum E.deg (φ c) = 0 := by
    rw [← hrep.trace, ← hrep.zero, ← htr]
    rfl
  have htel := traceSum_sq_add_self E.deg (φ p)
  rw [hrep.solveRounds_snd, Nat.sub_add_cancel hn] at hφw
  rw [Nat.sub_add_cancel hn, hrep.pow_card, htrc, ← hz] at hinv
  rw [hrep.pow_card, CharTwo.add_self_eq_zero] at htel
  have hone : traceSum E.deg (φ p) = 1 := by
    refine CharTwo.add_eq_zero.1 ((mul_eq_zero.1 ?_).resolve_left hφw)
    rw [← htel]
    ring
  rw [hrep.xor, hrep.mul, ← sq, hinv, hone]
  linear_combination (φ c * φ p) * CharTwo.two_eq_zero (R := K)

end Results

end Laws

/-! ### The statements -/

/-- Settles O39: `φ` of the square and of the shifted coordinates are both the square of the sum of conjugates. -/
theorem normalBasisSquareRotates : Obligations.NormalBasisSquareRotates := by
  unfold Obligations.NormalBasisSquareRotates
  intro kind n id x hk hn hex _
  have hE := normalBasis_onbContext (id := id) hk hn hex
  exact ⟨ExtField.mul_lt (E := onbContext kind n id) (bitLen_onbPoly hk _) x x, fun i hi => hE.testBit_sqr x hi⟩

/-- Settles O38: the checks in order, then one store; the laws hold in the field of `2^n` elements the context represents. -/
theorem efOneElementCommandsStoreTheirElement : Obligations.EfOneElementCommandsStoreTheirElement := by
  unfold Obligations.EfOneElementCommandsStoreTheirElement
  intro s dst a c alg E x y i pre law hE hx hcmd hok hirr
  subst hE hx
  have hfield (hv : (s.efc c).valid = true) := ExtField.exists_represents hok hv (hirr hv)
  rcases hcmd with ⟨rfl, rfl, rfl, rfl⟩ | ⟨rfl, rfl, hy, rfl⟩ | ⟨rfl, rfl, hy, rfl⟩ | ⟨rfl, rfl, hy, rfl⟩
  · refine Outcome_efUnary rfl rfl fun hv hx h => ?_
    obtain ⟨hn, hlen⟩ := ExtField.bounds_of_ok hok hv
    have hlt := ExtField.mul_lt hlen (s.elem (s.efc c) a) (s.elem (s.efc c) a)
    refine (Outcome_storeElem h hlt).mono fun hst => ⟨hlt, ⟨fun hk => ?_, fun hk k hk' => ?_⟩, hst⟩
    · simp only [ExtField.mul, hk]
      exact polyDvd_xor_polyMod _ _
    · exact (ExtField.normalBasis_of_ok hok hv hk).testBit_sqr _ hk'
  · refine Outcome_efUnary rfl rfl fun hv hx h => ?_
    obtain ⟨hn, hlen⟩ := ExtField.bounds_of_ok hok hv
    obtain ⟨K, _, _, φ, hrep⟩ := hfield hv
    have hlt : y < 2 ^ (s.efc c).deg := hy ▸ repeatTimes_lt (fun z => ExtField.mul_lt hlen z z) hx _
    have hroot := hrep.sqrt_mul_self hlen (by omega) hx hy
    exact (Outcome_storeElem (hy ▸ h) hlt).mono fun hst =>
      ⟨hlt, ⟨hroot, fun z hz hzx => hrep.eq_of_sq_eq hlt hz (hzx.trans hroot.symm)⟩, hst⟩
  · refine Outcome_efUnary (exec_efInv _ _ _ _ _) rfl fun hv hx h => ?_
    refine Outcome_check h fun h0 h => ?_
    obtain ⟨hn, hlen⟩ := ExtField.bounds_of_ok hok hv
    obtain ⟨K, _, _, φ, hrep⟩ := hfield hv
    have hlt : y < 2 ^ (s.efc c).deg := hy ▸ powerLoop_lt (ExtField.mul_lt hlen) (ExtField.one_lt hn) _ _
    have hinv := hy ▸ hrep.mul_inv hlen hn hx h0
    exact (Outcome_storeElem (hy ▸ h) hlt).mono fun hst =>
      ⟨hlt, ⟨hinv, fun z hz hxz => hrep.inv_unique hx h0 hlt hz (hxz.trans hinv.symm)⟩, hst⟩
  · refine Outcome_efUnary (exec_efHtrace _ _ _ _) rfl fun hv hx h => ?_
    refine Outcome_check h fun hodd h => ?_
    obtain ⟨hn, hlen⟩ := ExtField.bounds_of_ok hok hv
    obtain ⟨K, _, _, φ, hrep⟩ := hfield hv
    have hlt : y < 2 ^ (s.efc c).deg :=
      hy ▸ xorSum_lt fun j _ => repeatTimes_lt (fun z => ExtField.mul_lt hlen z z) hx _
    exact (Outcome_storeElem (hy ▸ h) hlt).mono fun hst => ⟨hlt, hrep.halfTrace_sq_add_self hlen hodd hx hy, hst⟩

end Sys2Proof.Machine

/-! ## The quadratic solver (43_ext_field R242, R243; 10_state R38, R39)

One equation per outcome of a turn of a search, and the state a candidate that succeeds leaves. -/

namespace Sys2Proof.Machine

set_option Elab.async false

section Search

variable {i : Instr} {s u : State} {E : ExtField} {d : DReg} {x r : Nat} {cand : State → Option Nat × State}
  {found : State → Nat → Except ErrCode State}

/-! ### A turn of a search -/

theorem searchTurn_limit (h : s.LimitReached) : searchTurn s cand found = .next (s.latch .searchLimit s.candidates) := if_pos h

theorem searchTurn_miss (h : ¬ s.LimitReached) (hc : (cand s).1 = none) :
    searchTurn s cand found = .next { (cand s).2 with candidates := s.candidates + 1 } := by
  rw [searchTurn, if_neg h]
  simp only [hc]

theorem searchTurn_error {e : ErrCode} (h : ¬ s.LimitReached) (hc : (cand s).1 = some r)
    (hf : found { (cand s).2 with candidates := s.candidates + 1 } r = .error e) :
    searchTurn s cand found = .next ({ (cand s).2 with candidates := s.candidates + 1 }.latch e (s.candidates + 1)) := by
  rw [searchTurn, if_neg h]
  simp only [hc, hf]

theorem searchTurn_found (h : ¬ s.LimitReached) (hc : (cand s).1 = some r)
    (hf : found { (cand s).2 with candidates := s.candidates + 1 } r = .ok u) :
    searchTurn s cand found = .next (u.complete (s.candidates + 1)) := by
  rw [searchTurn, if_neg h]
  simp only [hc, hf]

/-! ### Checks and results of a drawing command -/

/-- The checks of an element source before a command's last part. -/
theorem Outcome_afterCheckElem {r : Unit → Except ErrCode Unit} {last : Result} {rest : List (Prop × ErrCode)} {concl : Prop}
    (h : exec i s = afterChecks s (s.checkElem E d >>= r) last)
    (k : s.len d = E.deg → exec i s = afterChecks s (r ()) last → Outcome i s rest concl) :
    Outcome i s ((s.PolySource d, .bounds) :: (s.len d = E.deg, .dim) :: rest) concl := by
  rw [checkElem_eq, bind_assoc] at h
  exact Outcome_afterChecks h fun _ h => Outcome_afterChecks h k

theorem storeElem_of_fits (h : wordsFor E.deg ≤ s.cap d) : s.storeElem E d x = .ok (s.putElem E d x) := by
  rw [State.storeElem, State.checkCap, check_of _ h]
  rfl

theorem storeElem_of_not_fits (h : s.cap d < wordsFor E.deg) : s.storeElem E d x = .error .capacity := by
  rw [State.storeElem, State.checkCap, check_of_not _ (by omega)]
  rfl

theorem Drawn.cap (h : Drawn s u) (d : DReg) : u.cap d = s.cap d := by
  obtain ⟨l, n, c, rfl⟩ := h
  rfl

/-- An element stored after answers were taken: the answers are all that is left of the draws. -/
theorem Drawn.completes_putElem (hu : Drawn s u) (hx : x < 2 ^ E.deg) {j : Nat}
    (h : exec i s = .next ((u.putElem E d x).complete (j + 1))) :
    Completes i s (fun t => ElemResult s t E d x ∧ FieldsKept s t ∧ Effect s t (j + 1) [] [d] [(s.base d, wordsFor E.deg)]) := by
  obtain ⟨l, n, c, rfl⟩ := hu
  refine Completes_of h ⟨?_, ⟨rfl, rfl, rfl, rfl⟩, ?_⟩
  · obtain ⟨-, hres⟩ := elemResult_putElem (s := { s with candidates := c, env := { s.env with answers := l, answered := n } })
      (d := d) hx
    exact (PolyResult.complete hres (j + 1)).elemResult hx
  · refine Effect_of rfl ⟨rfl, rfl, rfl, rfl, rfl, rfl⟩ (fun _ _ => rfl) (fun e he => ?_) (fun a ha => ?_) ⟨rfl, rfl, rfl⟩
      (fun hj => absurd hj (Nat.succ_ne_zero j))
    · rw [State.putElem, putPoly_D, if_neg (by simpa using he)]
      rfl
    · exact putPoly_readByte _ d _ _ a (ha _ (List.mem_singleton_self _))

/-! ### The candidates of EF.SOLVEQ -/

theorem solveCandidate_miss {c : Nat} (h : (E.solveRounds c (s.drawElem E).1 (E.deg - 1)).2 = 0) :
    (solveCandidate E c s).1 = none := if_pos h

theorem solveCandidate_found {c : Nat} (h : (E.solveRounds c (s.drawElem E).1 (E.deg - 1)).2 ≠ 0) :
    (solveCandidate E c s).1 = some (E.solveRounds c (s.drawElem E).1 (E.deg - 1)).1 := if_neg h

/-- The `z` EF.SOLVEQ answers without a search solves `z^2 + z = c` for `c` of trace 0 (R241, R242). -/
theorem ExtField.Represents.direct_solution {K : Type} [Field K] [CharP K 2] {φ : Nat → K} (hrep : E.Represents φ)
    (hlen : bitLen E.poly = E.deg + 1) (hx : x < 2 ^ E.deg) (htr : E.trace x = 0) (hodd : x ≠ 0 → E.deg % 2 = 1) {z : Nat}
    (hz : z = if x = 0 then 0 else E.halfTrace x) : z < 2 ^ E.deg ∧ E.mul z z ^^^ z = x := by
  by_cases h0 : x = 0
  · rw [if_pos h0] at hz
    subst hz h0
    have hzero : E.mul 0 0 = 0 := hrep.inj _ _ (ExtField.mul_lt hlen 0 0) hx (by rw [hrep.mul, hrep.zero, zero_mul])
    exact ⟨hx, by rw [hzero, Nat.xor_self]⟩
  · rw [if_neg h0] at hz
    have hsol := hrep.halfTrace_sq_add_self hlen (hodd h0) hx hz
    refine ⟨hz ▸ xorSum_lt fun j _ => ExtField.frobenius_lt hlen hx _, hsol.trans ?_⟩
    exact (congrArg (x ^^^ ·) htr).trans (Nat.xor_zero x)

end Search

/-! ### The statement -/

/-- Settles O40: the checks in order, then 0, the half-trace or one turn of the search; `w` is the trace of the candidate, so
`w ≠ 0` is 1 and `z` solves the equation. -/
theorem efSolveqSolvesOrSearches : Obligations.EfSolveqSolvesOrSearches := by
  unfold Obligations.EfSolveqSolvesOrSearches
  intro s dst a c E x p hE hx hp hok hirr
  subst hE hx hp
  refine Outcome_afterChecks rfl fun hv h => Outcome_afterCheckElem h fun hl h => Outcome_afterChecks h fun _ h =>
    Outcome_afterCheck h fun htr h => ?_
  have hlt := elem_lt hl
  obtain ⟨hn, hlen⟩ := ExtField.bounds_of_ok hok hv
  obtain ⟨K, _, _, φ, hrep⟩ := ExtField.exists_represents hok hv (hirr hv)
  constructor
  · intro hdirect z hz
    obtain ⟨hzlt, hsol⟩ := hrep.direct_solution hlen hlt htr (fun h0 => hdirect.resolve_left h0) hz
    have hstore : exec (.efSolveq dst a c) s = finish s (s.storeElem (s.efc c) dst z) := by
      rw [h, hz]
      by_cases h0 : s.elem (s.efc c) a = 0
      · rw [if_pos h0, if_pos h0]
      · rw [if_neg h0, if_neg h0, if_pos (hdirect.resolve_left h0)]
    exact (Outcome_storeElem hstore hzlt).mono fun hst => ⟨hzlt, hsol, hst⟩
  · intro h0 heven
    rw [if_neg h0, if_neg (by omega)] at h
    have hdrawn : Drawn s { (s.drawElem (s.efc c)).2 with candidates := s.candidates + 1 } :=
      ((Drawn.refl s).drawElem _).withCandidates _
    refine ⟨fun hl => h.trans (searchTurn_limit hl), fun hl hw => h.trans (searchTurn_miss hl (solveCandidate_miss hw)),
      fun hl hw hcap => h.trans (searchTurn_error hl (solveCandidate_found hw) (storeElem_of_not_fits ?_)),
      fun hl hw hcap z hz => ?_⟩
    · exact (hdrawn.cap dst).trans_lt hcap
    · have hplt := s.drawElem_lt (s.efc c)
      have hzlt := hz ▸ (ExtField.solveRounds_lt hlen (s.elem (s.efc c) a) hplt ((s.efc c).deg - 1)).1
      refine ⟨hzlt, hrep.solveRounds_sq_add_self hlen (by omega) hlt hplt htr hw hz, hdrawn.completes_putElem hzlt (h.trans ?_)⟩
      rw [hz]
      exact searchTurn_found hl (solveCandidate_found hw) (storeElem_of_fits (hcap.trans (hdrawn.cap dst).ge))

end Sys2Proof.Machine

/-! ## The root search (44_basis_conversion R271, R273; 43_ext_field R243)

One turn of the search: an element the environment names, and whether it is a root. -/

namespace Sys2Proof.Machine

set_option Elab.async false

section RootSearch

variable {i : Instr} {s t : State} {A B : ExtField} {u : Nat × State} {r : Nat} {found : State → Nat → Except ErrCode State}

/-! ### The outcomes of a candidate -/

section Candidate

variable (hu : u = (s.drawElem B).2.takeAnswer) (hr : r = u.1 % 2 ^ B.deg)
include hu

/-- A candidate takes answers of the environment and leaves nothing else behind. -/
theorem drawn_rootDraw (k : Nat) : Drawn s { u.2 with candidates := k } :=
  hu ▸ (((Drawn.refl s).drawElem B).takeAnswer).withCandidates k

include hr

theorem rootCandidate_miss (h : B.evalPoly A.poly r ≠ 0) : rootCandidate A B s = (none, u.2) := by
  subst hu hr
  exact congrArg (·, _) (if_neg (by simpa [ExtField.isRoot] using h))

theorem rootCandidate_found (h : B.evalPoly A.poly r = 0) : rootCandidate A B s = (some r, u.2) := by
  subst hu hr
  exact congrArg (·, _) (if_pos (by simpa [ExtField.isRoot] using h))

/-- The turns of a root search that find nothing: at its limit, and with an element that is no root (R271). -/
theorem rootSearch_unsuccessful (h : exec i s = searchTurn s (rootCandidate A B) found) :
    (s.LimitReached → exec i s = .next (s.latch .searchLimit s.candidates))
      ∧ (¬ s.LimitReached → B.evalPoly A.poly r ≠ 0 → exec i s = .next { u.2 with candidates := s.candidates + 1 }) := by
  refine ⟨fun hl => h.trans (searchTurn_limit hl), fun hl hroot => ?_⟩
  have hmiss := rootCandidate_miss hu hr hroot
  rw [h, searchTurn_miss hl (congrArg Prod.fst hmiss), hmiss]

variable (h : exec i s = searchTurn s (rootCandidate A B) found) (hl : ¬ s.LimitReached) (hroot : B.evalPoly A.poly r = 0)
include h hl hroot

/-- A root the command cannot use ends it with the error of its last check. -/
theorem rootSearch_error {e : ErrCode} (hf : found { u.2 with candidates := s.candidates + 1 } r = .error e) :
    exec i s = .next ({ u.2 with candidates := s.candidates + 1 }.latch e (s.candidates + 1)) := by
  have hfound := rootCandidate_found hu hr hroot
  rw [h, searchTurn_error hl (congrArg Prod.fst hfound) (by rwa [hfound]), hfound]

theorem rootSearch_found (hf : found { u.2 with candidates := s.candidates + 1 } r = .ok t) :
    exec i s = .next (t.complete (s.candidates + 1)) := by
  have hfound := rootCandidate_found hu hr hroot
  rw [h, searchTurn_found hl (congrArg Prod.fst hfound) (by rwa [hfound])]

end Candidate

end RootSearch

/-! ### The statement -/

/-- Settles O41: the checks in order, then one turn of the search; the root is stored as the element it is. -/
theorem efRootStoresARoot : Obligations.EfRootStoresARoot := by
  unfold Obligations.EfRootStoresARoot
  intro s dst c A B u r hB hA hu hr
  subst hB hA
  refine Outcome_afterChecks rfl fun _ h => Outcome_afterChecks h fun _ h => Outcome_afterChecks h fun _ h =>
    Outcome_afterCheck h fun _ h => ?_
  have hdrawn := drawn_rootDraw hu (s.candidates + 1)
  obtain ⟨hlimit, hmiss⟩ := rootSearch_unsuccessful hu hr h
  refine ⟨hlimit, hmiss, fun hl hroot hcap => ?_, fun hl hroot hcap => ?_⟩
  · exact rootSearch_error hu hr h hl hroot (storeElem_of_not_fits ((hdrawn.cap dst).trans_lt hcap))
  · have hlt : r < 2 ^ (s.efc c).deg := hr ▸ Nat.mod_lt _ (Nat.two_pow_pos _)
    exact hdrawn.completes_putElem hlt
      (rootSearch_found hu hr h hl hroot (storeElem_of_fits (hcap.trans (hdrawn.cap dst).ge)))

end Sys2Proof.Machine

/-! ## Conversion without a search (44_basis_conversion R275; 10_state R47)

Contexts of one polynomial clone the stored string; others use the first cached matrix of their identifiers. -/

namespace Sys2Proof.Machine

set_option Elab.async false

section CachedConversion

variable {s : State} {A B : ExtField} {n : Nat} {e : CobEntry} {rows : List Nat}

/-! ### The cache -/

/-- The first entry of a pair of identifiers is the one found (10_state R47). -/
theorem findCob_eq_some {pre post : List CobEntry} {src dst : Word} (hcob : s.cob = pre ++ e :: post)
    (hpre : ∀ e' ∈ pre, ¬ (e'.srcId = src ∧ e'.dstId = dst)) (hsrc : e.srcId = src) (hdst : e.dstId = dst) :
    s.findCob src dst = some e :=
  List.find?_eq_some_iff_append.2 ⟨by simp [hsrc, hdst], pre, post, hcob, fun e' he' => by simpa [imp_iff_not_or] using hpre e' he'⟩

theorem findCob_eq_none {src dst : Word} (h : ∀ e ∈ s.cob, ¬ (e.srcId = src ∧ e.dstId = dst)) : s.findCob src dst = none :=
  List.find?_eq_none.2 fun e he => by simpa using h e he

/-! ### Numbers of a context's degree -/

theorem rowAt_lt (h : ∀ row ∈ rows, row < 2 ^ n) (k : Nat) : rowAt rows k < 2 ^ n := by
  rw [rowAt, List.getD_eq_getElem?_getD]
  cases hk : rows[k]? with
  | none => exact Nat.two_pow_pos n
  | some row => exact h row (List.mem_of_getElem? hk)

/-- A row vector times a matrix has the bits of the matrix's columns. -/
theorem vecMat_lt (h : ∀ row ∈ rows, row < 2 ^ n) (k v : Nat) : vecMat k v rows < 2 ^ n := by
  refine xorSum_lt fun j _ => ?_
  split
  · exact rowAt_lt h j
  · exact Nat.two_pow_pos n

/-- Contexts of one polynomial have one degree. -/
theorem ExtField.deg_eq_of_poly_eq {P : Params} (hA : A.ok P = true) (hB : B.ok P = true) (hvA : A.valid = true)
    (hvB : B.valid = true) (h : A.poly = B.poly) : A.deg = B.deg := by
  obtain ⟨-, hlenA⟩ := ExtField.bounds_of_ok hA hvA
  obtain ⟨-, hlenB⟩ := ExtField.bounds_of_ok hB hvB
  rw [h, hlenB] at hlenA
  omega

end CachedConversion

/-! ### The statement -/

/-- Settles O43: the checks in order, then a copy of the source's string, or its product with the entry the cache finds first. -/
theorem efConvClonesOrUsesTheCache : Obligations.EfConvClonesOrUsesTheCache := by
  unfold Obligations.EfConvClonesOrUsesTheCache
  intro s dst a c A B hA hB hokA hokB hrows
  subst hA hB
  refine Outcome_afterChecks rfl fun hvA h => Outcome_afterChecks h fun hvB h => Outcome_afterCheckElem h fun hlen h =>
    Outcome_afterCheck h fun _ h => ⟨fun hpoly => ?_, fun hpoly => ?_⟩
  · rw [if_pos hpoly] at h
    have hdeg := ExtField.deg_eq_of_poly_eq hokA hokB hvA hvB hpoly
    exact Outcome_check h fun _ h => Outcome_check h fun _ h =>
      storesAt_putPoly h (poly_lt_of_le (hlen.trans hdeg).le) (ExtField.deg_lt _)
  · rw [if_neg hpoly] at h
    refine Outcome_afterChecks h fun hn h => Outcome_afterCheck h fun _ h => ?_
    intro pre e post hcob hpre hsrc hdst
    simp only [findCob_eq_some hcob hpre hsrc hdst] at h
    refine Outcome_check h fun hen h => Outcome_storeElem h (vecMat_lt (fun row hrow => ?_) _ _)
    have hdeg : (s.efc c).deg = (s.efc (otherCtx c)).deg := congrArg BitVec.toNat hn
    rw [← hdeg, ← hen]
    exact hrows e (hcob ▸ List.mem_append_right _ List.mem_cons_self) row hrow

end Sys2Proof.Machine

/-! ## Matrices over GF(2) and their inverses (45_gf2_matrix R301, R302, R304)

The model's products of number rows are those of Mathlib's matrices over `ZMod 2`. The elimination keeps what holds of sums of
rows: at its end the right halves are the inverse, and where it finds no pivot the matrix takes some column vector to zero. -/

namespace Sys2Proof.Machine

set_option Elab.async false

section Gf2Matrices

variable {n c r k v : Nat} {a b : List Nat}

/-! ### Entries -/

theorem getD_map_range {α : Type} (f : Nat → α) (d : α) (hk : k < n) : ((List.range n).map f).getD k d = f k := by
  simp [List.getD_eq_getElem?_getD, List.getElem?_range hk]

theorem rowAt_map_range (f : Nat → Nat) (hk : k < n) : rowAt ((List.range n).map f) k = f k := getD_map_range f 0 hk

/-- A column of a vector-matrix product is a sum over GF(2) (R302). -/
theorem gf2Bit_vecMat (n v : Nat) (a : List Nat) (j : Nat) :
    gf2Bit ((vecMat n v a).testBit j) = ∑ i ∈ Finset.range n, gf2Bit (v.testBit i) * gf2Bit (entry a i j) := by
  refine (map_xorSum (φ := fun x => gf2Bit (x.testBit j)) (fun x y => ?_) n _).trans (Finset.sum_congr rfl fun i _ => ?_)
  · rw [Nat.testBit_xor, gf2Bit_xor]
  · cases v.testBit i with
    | false => simp [gf2Bit]
    | true => exact (one_mul (M := ZMod 2) _).symm

theorem vecMat_xor (n v w : Nat) (a : List Nat) : vecMat n (v ^^^ w) a = vecMat n v a ^^^ vecMat n w a :=
  xorSum_testBit_xor n v w _

/-- A unit vector picks a row. -/
theorem vecMat_two_pow (hk : k < n) (a : List Nat) : vecMat n (2 ^ k) a = rowAt a k := xorSum_testBit_two_pow hk _

/-- Every vector over GF(2) is the bits of a number. -/
theorem exists_gf2Bit_eq (w : Fin n → ZMod 2) : ∃ v < 2 ^ n, ∀ i : Fin n, gf2Bit (v.testBit i) = w i := by
  choose p hp using fun i => gf2Bit_surjective (w i)
  refine ⟨bitString n fun i => if h : i < n then p ⟨i, h⟩ else false, bitString_lt n _, fun i => ?_⟩
  simp [testBit_bitString, hp]

/-! ### The matrix of number rows -/

/-- The `n × n` matrix over GF(2) whose rows are numbers. -/
def gf2Matrix (n : Nat) (a : List Nat) : Matrix (Fin n) (Fin n) (ZMod 2) := .of fun i j => gf2Bit (entry a i j)

theorem gf2Matrix_matMul (n : Nat) (a b : List Nat) : gf2Matrix n (matMul n n a b) = gf2Matrix n a * gf2Matrix n b := by
  ext i j
  have hrow : rowAt (matMul n n a b) i = vecMat n (rowAt a i) b := rowAt_map_range _ i.isLt
  rw [Matrix.mul_apply]
  exact (congrArg (fun x => gf2Bit (x.testBit j)) hrow).trans ((gf2Bit_vecMat n _ b j).trans
    (Fin.sum_univ_eq_sum_range (fun k => gf2Bit (entry a i k) * gf2Bit (entry b k j)) n).symm)

theorem gf2Matrix_identity (n : Nat) : gf2Matrix n (identity n) = 1 := by
  ext i j
  have hrow : rowAt (identity n) i = 2 ^ (i : Nat) := (rowAt_map_range _ i.isLt).trans (Nat.one_shiftLeft _)
  simp [gf2Matrix, entry, hrow, Nat.testBit_two_pow, gf2Bit, Matrix.one_apply, Fin.ext_iff]

/-- Two numbers of `n` bits are equal where their bits over GF(2) are. -/
theorem eq_of_gf2Bit_eq {x y : Nat} (hx : x < 2 ^ n) (hy : y < 2 ^ n)
    (h : ∀ j : Fin n, gf2Bit (x.testBit j) = gf2Bit (y.testBit j)) : x = y := by
  refine Nat.eq_of_testBit_eq fun j => ?_
  by_cases hj : j < n
  · exact gf2Bit_injective (h ⟨j, hj⟩)
  · have hle : 2 ^ n ≤ 2 ^ j := Nat.pow_le_pow_right Nat.two_pos (by omega)
    rw [Nat.testBit_lt_two_pow (hx.trans_le hle), Nat.testBit_lt_two_pow (hy.trans_le hle)]

theorem matMul_eq_identity_iff (hb : ∀ row ∈ b, row < 2 ^ n) :
    matMul n n a b = identity n ↔ gf2Matrix n a * gf2Matrix n b = 1 := by
  rw [← gf2Matrix_matMul, ← gf2Matrix_identity]
  refine ⟨congrArg _, fun h => List.map_congr_left fun i hi => ?_⟩
  have hi := List.mem_range.1 hi
  have hrow (m : Nat → Nat) : rowAt ((List.range n).map m) i = m i := rowAt_map_range m hi
  refine eq_of_gf2Bit_eq (vecMat_lt hb _ _) (Nat.one_shiftLeft i ▸ Nat.pow_lt_pow_right Nat.one_lt_two hi) fun j => ?_
  have hentry := congrFun (congrFun h ⟨i, hi⟩) j
  simpa only [gf2Matrix, Matrix.of_apply, entry, matMul, identity, hrow] using hentry

/-- A matrix that takes a nonzero column vector to zero takes a nonzero row vector to zero (R304: it is singular). -/
theorem exists_vecMat_eq_zero (ha : ∀ row ∈ a, row < 2 ^ n) {w : Fin n → ZMod 2} (hw : w ≠ 0)
    (h : (gf2Matrix n a).mulVec w = 0) : ∃ v < 2 ^ n, v ≠ 0 ∧ vecMat n v a = 0 := by
  obtain ⟨u, hu, hzero⟩ := Matrix.exists_vecMul_eq_zero_iff.2 (Matrix.exists_mulVec_eq_zero_iff.1 ⟨w, hw, h⟩)
  obtain ⟨v, hv, hbits⟩ := exists_gf2Bit_eq u
  refine ⟨v, hv, ?_, eq_of_gf2Bit_eq (vecMat_lt ha n v) (Nat.two_pow_pos n) fun j => ?_⟩
  · rintro rfl
    exact hu (funext fun i => by rw [← hbits, Nat.zero_testBit]; rfl)
  · rw [gf2Bit_vecMat, ← Fin.sum_univ_eq_sum_range fun i => gf2Bit (v.testBit i) * gf2Bit (entry a i j)]
    simp only [hbits, Nat.zero_testBit]
    exact congrFun hzero j

/-! ### One column of the elimination -/

variable {rows rows' : List (Nat × Nat)} {P : Nat × Nat → Prop}

theorem leastFrom_some {p : Nat → Bool} (hk : k ≤ n) (h : leastFrom p n k = some r) : n - k ≤ r ∧ r < n ∧ p r = true := by
  induction k with
  | zero => cases h
  | succ k ih =>
    rw [leastFrom] at h
    split at h
    · rename_i hp
      obtain rfl := Option.some.inj h
      exact ⟨le_rfl, by omega, hp⟩
    · obtain ⟨hle, hlt, hp⟩ := ih (by omega) h
      exact ⟨by omega, hlt, hp⟩

theorem leastFrom_none {p : Nat → Bool} (h : leastFrom p n k = none) (hle : n - k ≤ r) (hlt : r < n) : p r = false := by
  induction k with
  | zero => omega
  | succ k ih =>
    rw [leastFrom] at h
    split at h
    · cases h
    · rename_i hp
      rcases Nat.eq_or_lt_of_le hle with rfl | hgt
      · simpa using hp
      · exact ih h (by omega)

/-- Row `r` of the elimination: a row of the matrix and the row of the right half beside it. -/
def pairAt (rows : List (Nat × Nat)) (r : Nat) : Nat × Nat := rows.getD r (0, 0)

/-- The sum of two rows, in both halves. -/
def addPairs (x y : Nat × Nat) : Nat × Nat := (x.1 ^^^ y.1, x.2 ^^^ y.2)

theorem addPairs_addPairs_cancel (x y : Nat × Nat) : addPairs (addPairs x y) y = x := by
  simp [addPairs]

theorem pairAt_swapRows (p : Nat) (hr : r < n) : pairAt (swapRows (0, 0) n c p rows) r = pairAt rows (Equiv.swap c p r) := by
  rw [pairAt, swapRows, getD_map_range _ _ hr, Equiv.swap_apply_def]
  split
  · rfl
  · split
    · rfl
    · rfl

/-- A column finds a pivot, exchanges it up and adds it to the rows with a 1 in the column (R304). -/
theorem eliminate2_eq_some (hc : c < n) (h : eliminate2 n c rows = some rows') :
    ∃ p, c ≤ p ∧ p < n ∧ (pairAt rows p).1.testBit c = true ∧ ∀ r < n, pairAt rows' r
      = if r ≠ c ∧ (pairAt rows (Equiv.swap c p r)).1.testBit c = true
        then addPairs (pairAt rows (Equiv.swap c p r)) (pairAt rows p) else pairAt rows (Equiv.swap c p r) := by
  unfold eliminate2 at h
  split at h
  · cases h
  · rename_i p hp
    obtain ⟨hle, hlt, hbit⟩ := leastFrom_some (Nat.sub_le n c) hp
    refine ⟨p, by omega, hlt, hbit, fun r hr => ?_⟩
    obtain rfl := Option.some.inj h
    have hpiv := pairAt_swapRows (rows := rows) (c := c) p hc
    rw [Equiv.swap_apply_left] at hpiv
    rw [← pairAt_swapRows p hr, ← hpiv, pairAt, getD_map_range _ _ hr]
    rfl

theorem eliminate2_eq_none (hc : c ≤ n) (h : eliminate2 n c rows = none) (hle : c ≤ r) (hlt : r < n) :
    (pairAt rows r).1.testBit c = false := by
  unfold eliminate2 at h
  split at h
  · rename_i hnone
    exact leastFrom_none (p := fun r => (pairAt rows r).1.testBit c) hnone (by omega) hlt
  · cases h

/-- What holds of all sums of rows it holds of. -/
def SumClosed (P : Nat × Nat → Prop) : Prop := ∀ x y, P x → P y → P (addPairs x y)

/-- A column keeps and brings in nothing but sums of rows. -/
theorem eliminate2_forall_iff (hc : c < n) (h : eliminate2 n c rows = some rows') (hP : SumClosed P) :
    (∀ r < n, P (pairAt rows' r)) ↔ ∀ r < n, P (pairAt rows r) := by
  obtain ⟨p, -, hp, -, hrows⟩ := eliminate2_eq_some hc h
  have hswap (r : Nat) (hr : r < n) : Equiv.swap c p r < n := by
    rw [Equiv.swap_apply_def]
    split_ifs <;> assumption
  constructor
  · intro hnew
    have hpivot : P (pairAt rows p) := by
      have := hnew c hc
      rwa [hrows c hc, if_neg (by simp), Equiv.swap_apply_left] at this
    have hold (r : Nat) (hr : r < n) : P (pairAt rows (Equiv.swap c p r)) := by
      have := hnew r hr
      rw [hrows r hr] at this
      split at this
      · rw [← addPairs_addPairs_cancel (pairAt rows (Equiv.swap c p r)) (pairAt rows p)]
        exact hP _ _ this hpivot
      · exact this
    exact fun r hr => Equiv.swap_apply_self c p r ▸ hold _ (hswap r hr)
  · intro hold r hr
    rw [hrows r hr]
    split
    · exact hP _ _ (hold _ (hswap r hr)) (hold p hp)
    · exact hold _ (hswap r hr)

/-- The columns below `c` are unit vectors. -/
def UnitColumns (n c : Nat) (rows : List (Nat × Nat)) : Prop :=
  ∀ k < c, ∀ r < n, (pairAt rows r).1.testBit k = decide (r = k)

theorem UnitColumns.eliminate2 (hu : UnitColumns n c rows) (hc : c < n) (h : eliminate2 n c rows = some rows') :
    UnitColumns n (c + 1) rows' := by
  obtain ⟨p, hle, hp, hpivot, hrows⟩ := eliminate2_eq_some hc h
  intro k hk r hr
  rw [hrows r hr]
  rcases Nat.eq_or_lt_of_le (Nat.lt_succ_iff.1 hk) with rfl | hlt
  · by_cases hrk : r = k
    · simp [hrk, hpivot]
    · cases hbit : (pairAt rows (Equiv.swap k p r)).1.testBit k <;> simp [hrk, hbit, hpivot, addPairs]
  · have hpiv : (pairAt rows p).1.testBit k = false := by
      rw [hu k hlt p hp]
      exact decide_eq_false (by omega)
    have hswap : (pairAt rows (Equiv.swap c p r)).1.testBit k = decide (r = k) := by
      rw [Equiv.swap_apply_def]
      split_ifs with hrc hrp
      · simp [hpiv, hrc, hlt.ne']
      · rw [hu k hlt c hc]
        exact decide_eq_decide.2 (by omega)
      · exact hu k hlt r hr
    split <;> simp [addPairs, hswap, hpiv]

/-! ### All columns -/

theorem UnitColumns.eliminateCols2 (hc : c ≤ n) (h : eliminateCols2 n rows c = some rows') : UnitColumns n c rows' := by
  induction c generalizing rows' with
  | zero => exact fun k hk => absurd hk (Nat.not_lt_zero k)
  | succ c ih =>
    obtain ⟨mid, hmid, hlast⟩ := Option.bind_eq_some_iff.1 h
    exact (ih (by omega) hmid).eliminate2 hc hlast

theorem eliminateCols2_forall_iff (hc : c ≤ n) (h : eliminateCols2 n rows c = some rows') (hP : SumClosed P) :
    (∀ r < n, P (pairAt rows' r)) ↔ ∀ r < n, P (pairAt rows r) := by
  induction c generalizing rows' with
  | zero => rw [Option.some.inj h]
  | succ c ih =>
    obtain ⟨mid, hmid, hlast⟩ := Option.bind_eq_some_iff.1 h
    exact (eliminate2_forall_iff hc hlast hP).trans (ih (by omega) hmid)

/-- An elimination that stops does so in one of its columns. -/
theorem exists_eliminate2_eq_none (h : eliminateCols2 n rows c = none) :
    ∃ k mid, k < c ∧ eliminateCols2 n rows k = some mid ∧ eliminate2 n k mid = none := by
  induction c with
  | zero => cases h
  | succ c ih =>
    cases hmid : eliminateCols2 n rows c with
    | none =>
      obtain ⟨k, mid, hk, hrest⟩ := ih hmid
      exact ⟨k, mid, by omega, hrest⟩
    | some mid =>
      rw [Machine.eliminateCols2, hmid, Option.bind_some] at h
      exact ⟨c, mid, Nat.lt_succ_self c, hmid, h⟩

/-- The column vector that rows with unit columns below `c` and no pivot in column `c` take to zero. -/
def pivotlessVector (rows : List (Nat × Nat)) (c k : Nat) : ZMod 2 :=
  if k = c then 1 else if k < c then gf2Bit ((pairAt rows k).1.testBit c) else 0

theorem UnitColumns.sum_pivotlessVector (hu : UnitColumns n c rows) (hc : c < n)
    (hpivot : ∀ r, c ≤ r → r < n → (pairAt rows r).1.testBit c = false) (hr : r < n) :
    ∑ k ∈ Finset.range n, gf2Bit ((pairAt rows r).1.testBit k) * pivotlessVector rows c k = 0 := by
  have hoff (k : Nat) (hkc : k ≠ c) (hkr : k ≠ r) : gf2Bit ((pairAt rows r).1.testBit k) * pivotlessVector rows c k = 0 := by
    by_cases hk : k < c
    · rw [hu k hk r hr, decide_eq_false hkr.symm]
      exact zero_mul _
    · rw [pivotlessVector, if_neg hkc, if_neg hk, mul_zero]
  have hcol : gf2Bit ((pairAt rows r).1.testBit c) * pivotlessVector rows c c = gf2Bit ((pairAt rows r).1.testBit c) := by
    rw [pivotlessVector, if_pos rfl, mul_one]
  by_cases hrc : r < c
  · rw [Finset.sum_eq_add r c hrc.ne (fun k _ hk => hoff k hk.2 hk.1) (fun h => absurd (Finset.mem_range.2 hr) h)
      (fun h => absurd (Finset.mem_range.2 hc) h), hcol, hu r hrc r hr, decide_eq_true rfl, pivotlessVector, if_neg hrc.ne,
      if_pos hrc]
    exact (congrArg (· + _) (one_mul _)).trans (CharTwo.add_self_eq_zero _)
  · refine Finset.sum_eq_zero fun k _ => ?_
    have hzero := hpivot r (by omega) hr
    by_cases hkc : k = c
    · rw [hkc, hcol, hzero]
      rfl
    · by_cases hkr : k = r
      · rw [pivotlessVector, if_neg hkc, if_neg (by omega), mul_zero]
      · exact hoff k hkc hkr

/-! ### The inverse -/

/-- The rows the elimination starts from: the matrix and the identity (R304). -/
def startRows (n : Nat) (a : List Nat) : List (Nat × Nat) := (List.range n).map fun i => (rowAt a i, 1 <<< i)

theorem matInv_eq (n : Nat) (a : List Nat) : matInv n a = (eliminateCols2 n (startRows n a) n).map fun l => l.map Prod.snd := rfl

theorem pairAt_startRows (hr : r < n) : pairAt (startRows n a) r = (rowAt a r, 2 ^ r) := by
  rw [pairAt, startRows, getD_map_range _ _ hr, Nat.one_shiftLeft]

theorem rowAt_map_snd (rows : List (Nat × Nat)) (r : Nat) : rowAt (rows.map Prod.snd) r = (pairAt rows r).2 := by
  rw [rowAt, pairAt, List.getD_eq_getElem?_getD, List.getD_eq_getElem?_getD, List.getElem?_map]
  cases rows[r]? <;> rfl

/-- What the elimination ends with is a left inverse: each left half is the sum of rows of the matrix its right half names. -/
theorem matMul_matInv (ha : ∀ row ∈ a, row < 2 ^ n) {m : List Nat} (h : matInv n a = some m) :
    matMul n n m a = identity n := by
  rw [matInv_eq] at h
  obtain ⟨rows, hrows, rfl⟩ := Option.map_eq_some_iff.1 h
  have hunit := UnitColumns.eliminateCols2 le_rfl hrows
  have hcomb : ∀ r < n, (pairAt rows r).1 = vecMat n (pairAt rows r).2 a := by
    refine (eliminateCols2_forall_iff (P := fun x => x.1 = vecMat n x.2 a) le_rfl hrows fun x y hx hy => ?_).2 fun r hr => ?_
    · exact (congrArg₂ (· ^^^ ·) hx hy).trans (vecMat_xor n x.2 y.2 a).symm
    · rw [pairAt_startRows hr, vecMat_two_pow hr]
  refine List.map_congr_left fun r hr => ?_
  have hr := List.mem_range.1 hr
  rw [rowAt_map_snd, ← hcomb r hr, Nat.one_shiftLeft]
  refine eq_of_gf2Bit_eq (hcomb r hr ▸ vecMat_lt ha _ _) (Nat.pow_lt_pow_right Nat.one_lt_two hr) fun j => ?_
  rw [hunit j j.isLt r hr, Nat.testBit_two_pow]

/-- Where the elimination finds no pivot the matrix takes some column vector to zero. -/
theorem exists_mulVec_eq_zero_of_matInv (h : matInv n a = none) : ∃ w : Fin n → ZMod 2, w ≠ 0 ∧ (gf2Matrix n a).mulVec w = 0 := by
  rw [matInv_eq, Option.map_eq_none_iff] at h
  obtain ⟨c, mid, hc, hmid, hnone⟩ := exists_eliminate2_eq_none h
  have hzero := (eliminateCols2_forall_iff
    (P := fun x => ∑ k ∈ Finset.range n, gf2Bit (x.1.testBit k) * pivotlessVector mid c k = 0) hc.le hmid fun x y hx hy => by
      simp only [addPairs, Nat.testBit_xor, gf2Bit_xor, add_mul, Finset.sum_add_distrib, hx, hy, add_zero]).1
    fun r hr => (UnitColumns.eliminateCols2 hc.le hmid).sum_pivotlessVector hc
      (fun r hle hlt => eliminate2_eq_none hc.le hnone hle hlt) hr
  refine ⟨fun k => pivotlessVector mid c k, fun hw => ?_, funext fun r => ?_⟩
  · have := congrFun hw ⟨c, hc⟩
    simp [pivotlessVector] at this
  · have := hzero r r.isLt
    rw [pairAt_startRows r.isLt] at this
    exact (Fin.sum_univ_eq_sum_range (fun k => gf2Bit (entry a r k) * pivotlessVector mid c k) n).trans this

/-- A matrix with independent rows has a two-sided inverse, and the elimination finds it (R304). -/
theorem exists_matInv_eq_some (ha : ∀ row ∈ a, row < 2 ^ n) (hindep : ∀ v < 2 ^ n, vecMat n v a = 0 → v = 0) :
    ∃ m, matInv n a = some m ∧ matMul n n a m = identity n ∧ matMul n n m a = identity n := by
  cases h : matInv n a with
  | none =>
    obtain ⟨w, hw, hzero⟩ := exists_mulVec_eq_zero_of_matInv h
    obtain ⟨v, hv, hne, hv0⟩ := exists_vecMat_eq_zero ha hw hzero
    exact absurd (hindep v hv hv0) hne
  | some m =>
    have hleft := matMul_matInv ha h
    refine ⟨m, rfl, ?_, hleft⟩
    rw [matMul_eq_identity_iff (matInv_lt h), mul_eq_one_comm]
    exact (matMul_eq_identity_iff ha).1 hleft

end Gf2Matrices

end Sys2Proof.Machine

/-! ## The change-of-basis matrix of a root is invertible (44_basis_conversion R270, R272)

In the field the target context represents, the rows of the matrix are the powers of the root, or its conjugates. They are
independent: the powers because the source's polynomial is irreducible, the conjugates because a root of the polynomial of a normal
basis generates one. -/

namespace Sys2Proof.Machine

set_option Elab.async false

section Roots

open Polynomial

variable {A B : ExtField} {K : Type} [Field K] [CharP K 2] {φ : Nat → K} {n r v : Nat} {x γ : K}

/-! ### Values of polynomials over GF(2) -/

/-- The value of a polynomial over GF(2) at an element of a field of characteristic 2. -/
noncomputable def gf2Eval (x : K) : (ZMod 2)[X] →+* K := eval₂RingHom (ZMod.castHom (dvd_refl 2) K) x

@[simp] theorem gf2Eval_X (x : K) : gf2Eval x X = x := eval₂_X _ _

/-- The value at `x` of the polynomial of an `n`-bit number. -/
theorem gf2Eval_gf2Poly (x : K) (hv : v < 2 ^ n) :
    gf2Eval x (gf2Poly v) = ∑ i ∈ Finset.range n, if v.testBit i then x ^ i else 0 := by
  have hterm (i : Nat) : gf2Eval x (if v.testBit i then X ^ i else 0) = if v.testBit i then x ^ i else 0 := by
    split <;> simp
  rw [gf2Poly, map_sum]
  simp only [hterm]
  refine Finset.sum_subset (Finset.range_subset_range.2 (bitLen_le_iff.2 hv)) fun i _ hi => ?_
  have hle : bitLen v ≤ i := by simpa using hi
  rw [Nat.testBit_lt_two_pow (bitLen_le_iff.1 hle)]
  rfl

/-- No smaller polynomial vanishes at a root of an irreducible one. -/
theorem eq_zero_of_gf2Eval_eq_zero {P : Nat} (hP : PolyIrreducible P) (hlen : bitLen P = n + 1) (hroot : gf2Eval x (gf2Poly P) = 0)
    (hv : v < 2 ^ n) (h : gf2Eval x (gf2Poly v) = 0) : v = 0 := by
  have hirr := polyIrreducible_iff.1 hP
  by_cases hdvd : gf2Poly P ∣ gf2Poly v
  · refine gf2Poly_eq_zero_iff.1 (eq_zero_of_dvd_of_degree_lt hdvd ?_)
    rw [degree_eq_natDegree hirr.ne_zero, natDegree_gf2Poly, hlen]
    exact degree_gf2Poly_lt_iff.2 hv
  · obtain ⟨f, g, hfg⟩ := hirr.coprime_iff_not_dvd.2 hdvd
    have := congrArg (gf2Eval x) hfg
    simp [hroot, h] at this

/-! ### Roots of the polynomials of normal bases -/

theorem two_lt_onbPrime {kind : Kind} (hk : kind ≠ .poly) (hn : 2 ≤ n) : 2 < onbPrime kind n := by
  cases kind with
  | poly => exact absurd rfl hk
  | onb1 => rw [onbPrime_onb1]; omega
  | onb2 => rw [onbPrime_onb2]; omega

/-- A root of `1 + X + … + X^(p−1)` is a primitive root of unity for an odd prime `p`. -/
theorem isPrimitiveRoot_of_geom_sum {p : Nat} (hp : p.Prime) (h2 : 2 < p) (h : ∑ i ∈ Finset.range p, γ ^ i = 0) :
    IsPrimitiveRoot γ p := by
  have hpow : γ ^ p = 1 := by
    have := geom_sum_mul γ p
    rw [h, zero_mul] at this
    exact sub_eq_zero.1 this.symm
  have hne : γ ≠ 1 := by
    rintro rfl
    have hcast : ((p : Nat) : K) = 0 := by simpa using h
    have hdvd := (CharP.cast_eq_zero_iff K 2 p).1 hcast
    rw [Nat.prime_dvd_prime_iff_eq Nat.prime_two hp] at hdvd
    omega
  have := Fact.mk hp
  exact orderOf_eq_prime hpow hne ▸ IsPrimitiveRoot.orderOf γ

/-- The polynomial of type I is `1 + X + … + X^n` (43 R232). -/
theorem gf2Eval_onbPoly_onb1 (x : K) (n : Nat) :
    gf2Eval x (gf2Poly (onbPoly .onb1 n)) = ∑ i ∈ Finset.range (n + 1), x ^ i := by
  have hlt : onbPoly .onb1 n < 2 ^ (n + 1) := Nat.sub_lt (Nat.two_pow_pos _) Nat.one_pos
  rw [gf2Eval_gf2Poly x hlt]
  refine Finset.sum_congr rfl fun i hi => if_pos ?_
  rw [testBit_onbPoly_onb1]
  exact decide_eq_true (Nat.lt_succ_iff.1 (Finset.mem_range.1 hi))

/-- Two more terms of a geometric sum. -/
theorem sq_mul_geom_sum (γ : K) (m : Nat) :
    γ ^ 2 * ∑ i ∈ Finset.range m, γ ^ i = (∑ i ∈ Finset.range (m + 2), γ ^ i) + γ + 1 := by
  have hshift : ∑ i ∈ Finset.range (m + 2), γ ^ i = γ ^ 2 * ∑ i ∈ Finset.range m, γ ^ i + γ + 1 := by
    rw [Finset.sum_range_succ', Finset.sum_range_succ', Finset.mul_sum]
    simp only [pow_add, zero_add, pow_one, pow_zero]
    congr 2
    exact Finset.sum_congr rfl fun i _ => by ring
  rw [hshift]
  linear_combination -(γ + 1) * CharTwo.two_eq_zero (R := K)

theorem gf2Poly_two_mul (a : Nat) : gf2Poly (2 * a) = X * gf2Poly a := by
  rw [show 2 * a = a <<< 1 by rw [Nat.shiftLeft_eq]; omega, gf2Poly_shiftLeft, pow_one, mul_comm]

/-- The polynomial of type II at `γ + γ^(−1)` is `γ^(−n) + … + γ^n` (43 R232). -/
theorem pow_mul_gf2Eval_onb2Poly (hγ : γ ≠ 0) (k : Nat) :
    γ ^ k * gf2Eval (γ + γ⁻¹) (gf2Poly (onb2Poly k).1) = ∑ i ∈ Finset.range (2 * k + 1), γ ^ i := by
  induction k using Nat.twoStepInduction with
  | zero => simp [onb2Poly]
  | one =>
    have hone : gf2Poly (onb2Poly 1).1 = X + 1 := by
      rw [← gf2Poly_two, ← gf2Poly_one, ← gf2Poly_xor]
      rfl
    simp only [hone, map_add, gf2Eval_X, map_one, Finset.sum_range_succ, Finset.sum_range_zero]
    field_simp
    ring
  | more k ih0 ih1 =>
    have hrec : gf2Eval (γ + γ⁻¹) (gf2Poly (onb2Poly (k + 2)).1)
        = (γ + γ⁻¹) * gf2Eval (γ + γ⁻¹) (gf2Poly (onb2Poly (k + 1)).1)
          + gf2Eval (γ + γ⁻¹) (gf2Poly (onb2Poly k).1) := by
      rw [onb2Poly_recurrence, gf2Poly_xor, gf2Poly_two_mul, map_add, map_mul, gf2Eval_X]
    have h0 : γ ^ 2 * ∑ i ∈ Finset.range (2 * k + 1), γ ^ i = ∑ i ∈ Finset.range (2 * (k + 1) + 1), γ ^ i + γ + 1 :=
      sq_mul_geom_sum γ (2 * k + 1)
    have h1 : γ ^ 2 * ∑ i ∈ Finset.range (2 * (k + 1) + 1), γ ^ i = ∑ i ∈ Finset.range (2 * (k + 2) + 1), γ ^ i + γ + 1 :=
      sq_mul_geom_sum γ (2 * (k + 1) + 1)
    have hinv : γ * γ⁻¹ = 1 := mul_inv_cancel₀ hγ
    rw [hrec]
    linear_combination γ ^ (k + 1) * gf2Eval (γ + γ⁻¹) (gf2Poly (onb2Poly (k + 1)).1) * hinv + (γ ^ 2 + 1) * ih1
      + γ ^ 2 * ih0 + h1 + h0 + (∑ i ∈ Finset.range (2 * (k + 1) + 1), γ ^ i + γ + 1) * CharTwo.two_eq_zero (R := K)

/-- Every element is `γ + γ^(−1)` for some `γ` of an algebraically closed field. -/
theorem exists_add_inv_eq [IsAlgClosed K] (x : K) : ∃ γ : K, γ ≠ 0 ∧ γ + γ⁻¹ = x := by
  have hdeg : (X ^ 2 + C x * X + C 1 : K[X]).degree = 2 := by compute_degree!
  obtain ⟨γ, hγ⟩ := IsAlgClosed.exists_root _ (hdeg.trans_ne (by decide))
  have hroot : γ ^ 2 + x * γ + 1 = 0 := by simpa [IsRoot] using hγ
  have hne : γ ≠ 0 := by
    rintro rfl
    simp at hroot
  refine ⟨γ, hne, ?_⟩
  field_simp
  linear_combination hroot - (γ * x) * CharTwo.two_eq_zero (R := K)

/-- A root of the polynomial of a normal basis is the `β` of that basis (43 R232). -/
theorem ExtField.NormalBasis.exists_onbValue_eq [IsAlgClosed K] (hA : A.NormalBasis)
    (hroot : gf2Eval x (gf2Poly (onbPoly A.kind A.deg)) = 0) :
    ∃ γ, IsPrimitiveRoot γ (onbPrime A.kind A.deg) ∧ onbValue A.kind γ 1 = x := by
  have hp := hA.prime
  have h2 := two_lt_onbPrime hA.notPoly hA.twoLe
  cases hk : A.kind with
  | poly => exact absurd hk hA.notPoly
  | onb1 =>
    rw [hk] at hp h2 hroot
    rw [gf2Eval_onbPoly_onb1] at hroot
    exact ⟨x, isPrimitiveRoot_of_geom_sum hp h2 hroot, pow_one x⟩
  | onb2 =>
    rw [hk] at hp h2 hroot
    obtain ⟨γ, hγ, rfl⟩ := exists_add_inv_eq x
    refine ⟨γ, isPrimitiveRoot_of_geom_sum hp h2 ?_, by simp [onbValue]⟩
    have hsum := pow_mul_gf2Eval_onb2Poly hγ A.deg
    rw [show (onb2Poly A.deg).1 = onbPoly .onb2 A.deg from rfl, hroot, mul_zero] at hsum
    exact hsum.symm

/-! ### Independent rows -/

omit [CharP K 2] in
/-- A field larger than the one a context represents represents it too. -/
theorem ExtField.Represents.comp {L : Type} [Field L] (hrep : B.Represents φ) (f : K →+* L) : B.Represents (f ∘ φ) where
  xor a b := by simp only [Function.comp_apply, hrep.xor, map_add]
  mul a b := by simp only [Function.comp_apply, hrep.mul, map_mul]
  one := by rw [Function.comp_apply, hrep.one, map_one]
  inj a b ha hb h := hrep.inj a b ha hb (f.injective h)
  pow_card a := by rw [Function.comp_apply, ← map_pow, hrep.pow_card]

theorem ExtField.exists_represents_algClosed {P : Params} (hok : B.ok P = true) (hv : B.valid = true)
    (hirr : B.kind = .poly → PolyIrreducible B.poly) :
    ∃ (L : Type) (_ : Field L) (_ : CharP L 2) (_ : IsAlgClosed L) (ψ : Nat → L), B.Represents ψ := by
  obtain ⟨F, _, _, χ, hχ⟩ := ExtField.exists_represents hok hv hirr
  exact ⟨AlgebraicClosure F, inferInstance, charP_of_injective_algebraMap (algebraMap F (AlgebraicClosure F)).injective 2,
    inferInstance, _, hχ.comp (algebraMap F (AlgebraicClosure F))⟩

omit [CharP K 2] in
theorem ExtField.Represents.pow (hrep : B.Represents φ) (x e : Nat) : φ (B.pow x e) = φ x ^ e :=
  map_power hrep.mul hrep.one x e

/-- The value of a polynomial in a context is its value in the field. -/
theorem ExtField.Represents.evalPoly (hrep : B.Represents φ) (Q r : Nat) : φ (B.evalPoly Q r) = gf2Eval (φ r) (gf2Poly Q) := by
  rw [ExtField.evalPoly, map_xorSum hrep.xor, gf2Eval_gf2Poly (φ r) (lt_two_pow_bitLen Q)]
  refine Finset.sum_congr rfl fun i _ => ?_
  split
  · exact hrep.pow r i
  · exact hrep.zero

omit [CharP K 2] in
/-- What a row of the matrix stands for (44 R270). -/
theorem ExtField.Represents.cobRow (hrep : B.Represents φ) (A : ExtField) (r j : Nat) :
    φ (Machine.cobRow A B r j) = if A.kind = .poly then φ r ^ j else φ r ^ 2 ^ j := by
  unfold Machine.cobRow
  cases A.kind with
  | poly => exact hrep.pow r j
  | onb1 | onb2 => exact hrep.frobenius j r

/-- What a row vector times the matrix stands for (44 R270). -/
theorem ExtField.Represents.vecMat_cobMatrix (hrep : B.Represents φ) (A : ExtField) (r v : Nat) :
    φ (vecMat A.deg v (cobMatrix A B r))
      = ∑ j ∈ Finset.range A.deg, if v.testBit j then (if A.kind = .poly then φ r ^ j else φ r ^ 2 ^ j) else 0 := by
  rw [vecMat, map_xorSum hrep.xor]
  refine Finset.sum_congr rfl fun j hj => ?_
  split
  · rw [cobMatrix, rowAt_map_range _ (Finset.mem_range.1 hj), hrep.cobRow]
  · exact hrep.zero

/-- A configured normal basis has the polynomial of its kind (43 R232). -/
theorem ExtField.poly_eq_onbPoly {P : Params} (hok : A.ok P = true) (hv : A.valid = true) (hk : A.kind ≠ .poly) :
    A.poly = onbPoly A.kind A.deg := by
  simp only [ExtField.ok, if_pos hv, ExtField.configured, Bool.and_eq_true] at hok
  obtain ⟨-, hok⟩ := hok
  cases hkind : A.kind with
  | poly => exact absurd hkind hk
  | onb1 | onb2 =>
    simp only [hkind, Bool.and_eq_true, beq_iff_eq] at hok
    obtain ⟨⟨⟨⟨⟨-, hpoly⟩, -⟩, -⟩, -⟩, -⟩ := hok
    exact hpoly

/-- The rows of the matrix of a root are independent (44 R270). -/
theorem ExtField.Represents.cobMatrix_independent [IsAlgClosed K] (hrep : B.Represents φ) {P : Params} (hok : A.ok P = true)
    (hvalid : A.valid = true) (hirr : A.kind = .poly → PolyIrreducible A.poly) (hroot : B.evalPoly A.poly r = 0)
    (hv : v < 2 ^ A.deg) (h : vecMat A.deg v (cobMatrix A B r) = 0) : v = 0 := by
  have hsum := hrep.vecMat_cobMatrix A r v
  have hval := hrep.evalPoly A.poly r
  rw [h, hrep.zero] at hsum
  rw [hroot, hrep.zero] at hval
  by_cases hk : A.kind = .poly
  · simp only [if_pos hk] at hsum
    rw [← gf2Eval_gf2Poly (φ r) hv] at hsum
    exact eq_zero_of_gf2Eval_eq_zero (hirr hk) (ExtField.bounds_of_ok hok hvalid).2 hval.symm hv hsum.symm
  · simp only [if_neg hk] at hsum
    have hA := ExtField.normalBasis_of_ok hok hvalid hk
    rw [ExtField.poly_eq_onbPoly hok hvalid hk] at hval
    obtain ⟨γ, hγ, hβ⟩ := hA.exists_onbValue_eq hval.symm
    have hrepA := hA.represents hγ
    rw [hβ] at hrepA
    exact hrepA.inj v 0 hv (Nat.two_pow_pos _) (hsum.symm.trans (normalSum_zero _ _).symm)

/-! ### The inverse matrix -/

/-- The matrix of a root and the reverse entry's matrix are inverse to each other (44 R270, R272). -/
theorem cobMatrix_cobReverse {P : Params} (hokA : A.ok P = true) (hokB : B.ok P = true) (hvA : A.valid = true)
    (hvB : B.valid = true) (hirrA : A.kind = .poly → PolyIrreducible A.poly) (hirrB : B.kind = .poly → PolyIrreducible B.poly)
    (hdeg : A.deg = B.deg) (hr : r < 2 ^ B.deg) (hroot : B.evalPoly A.poly r = 0) :
    matMul A.deg A.deg (cobMatrix A B r) (cobReverse A.deg (cobMatrix A B r)) = identity A.deg
      ∧ matMul A.deg A.deg (cobReverse A.deg (cobMatrix A B r)) (cobMatrix A B r) = identity A.deg := by
  obtain ⟨L, _, _, _, ψ, hrep⟩ := ExtField.exists_represents_algClosed hokB hvB hirrB
  obtain ⟨m, hm, hinv⟩ := exists_matInv_eq_some (hdeg ▸ cobMatrix_lt hokB hvB hr) fun v hv h =>
    hrep.cobMatrix_independent hokA hvA hirrA hroot hv h
  rw [cobReverse, hm]
  exact hinv

theorem cobMatrix_length (A B : ExtField) (r : Nat) : (cobMatrix A B r).length = A.deg := by
  simp [cobMatrix]

/-- Row `j` of the matrix is `r^j`, or `r` squared `j` times (44 R270). -/
theorem rowAt_cobMatrix (A B : ExtField) (r : Nat) {j : Nat} (hj : j < A.deg) :
    rowAt (cobMatrix A B r) j = if A.kind = .poly then B.pow r j else repeatTimes (fun x => B.mul x x) j r := by
  rw [cobMatrix, rowAt_map_range _ hj, cobRow]
  cases A.kind with
  | poly => rfl
  | onb1 | onb2 => rfl

end Roots

end Sys2Proof.Machine

/-! ## Filling the change-of-basis cache (44_basis_conversion R272, R274, R275)

A root completes EF.COB and a missed EF.CONV: a pair of entries is appended, and EF.CONV stores the converted element too. -/

namespace Sys2Proof.Machine

set_option Elab.async false

section CachePairs

variable {i : Instr} {s u : State} {A B : ExtField} {x : Nat}

/-- The entry of the conversion from `A` to `B` (44 R272). -/
def forwardEntry (A B : ExtField) (m : List Nat) : CobEntry :=
  { srcId := A.fieldId, dstId := B.fieldId, n := A.deg, rows := m }

/-- The entry of the conversion back (44 R272). -/
def reverseEntry (A B : ExtField) (m : List Nat) : CobEntry :=
  { srcId := B.fieldId, dstId := A.fieldId, n := A.deg, rows := cobReverse A.deg m }

/-- A pair appended after answers were taken follows the entries that were there, and no context changed. -/
theorem Drawn.appendCob_fields (hu : Drawn s u) (A B : ExtField) (m : List Nat) :
    (u.appendCob A B m).cob = s.cob ++ [forwardEntry A B m, reverseEntry A B m] ∧ u.sf = s.sf ∧ u.efc0 = s.efc0
      ∧ u.efc1 = s.efc1 := by
  obtain ⟨l, n, c, rfl⟩ := hu
  exact ⟨rfl, rfl, rfl, rfl⟩

/-- Of a pair appended after answers were taken nothing shows but the cache. -/
theorem Drawn.effect_appendCob (hu : Drawn s u) (A B : ExtField) (m : List Nat) (j : Nat) :
    Effect s ((u.appendCob A B m).complete (j + 1)) (j + 1) [] [] [] := by
  obtain ⟨l, n, c, rfl⟩ := hu
  exact Effect_of rfl ⟨rfl, rfl, rfl, rfl, rfl, rfl⟩ (fun _ _ => rfl) (fun _ _ => rfl) (fun _ _ => rfl) ⟨rfl, rfl, rfl⟩
    (fun hj => absurd hj (Nat.succ_ne_zero j))

/-- An element stored after a pair was appended. -/
theorem Drawn.putElem_appendCob (hu : Drawn s u) (hx : x < 2 ^ B.deg) (A : ExtField) (m : List Nat) (d : DReg) (j : Nat) :
    ElemResult s (((u.appendCob A B m).putElem B d x).complete (j + 1)) B d x
      ∧ Effect s (((u.appendCob A B m).putElem B d x).complete (j + 1)) (j + 1) [] [d] [(s.base d, wordsFor B.deg)] := by
  obtain ⟨l, n, c, rfl⟩ := hu
  constructor
  · obtain ⟨-, hres⟩ := elemResult_putElem (s := State.appendCob
      { s with candidates := c, env := { s.env with answers := l, answered := n } } A B m) (d := d) hx
    exact (PolyResult.complete hres (j + 1)).elemResult hx
  · refine Effect_of rfl ⟨rfl, rfl, rfl, rfl, rfl, rfl⟩ (fun _ _ => rfl) (fun e he => ?_) (fun a ha => ?_) ⟨rfl, rfl, rfl⟩
      (fun hj => absurd hj (Nat.succ_ne_zero j))
    · rw [State.putElem, putPoly_D, if_neg (by simpa using he)]
      rfl
    · exact putPoly_readByte _ d _ _ a (ha _ (List.mem_singleton_self _))

/-! ### Checks known to pass -/

theorem exec_of_afterChecks {p : Prop} [Decidable p] {e : ErrCode} {r : Unit → Except ErrCode Unit} {last : Result}
    (h : exec i s = afterChecks s (check p e >>= r) last) (hp : p) : exec i s = afterChecks s (r ()) last := by
  rwa [check_bind, if_pos hp] at h

theorem exec_of_afterCheck {p : Prop} [Decidable p] {e : ErrCode} {last : Result}
    (h : exec i s = afterChecks s (check p e) last) (hp : p) : exec i s = last := by
  rwa [check_of e hp] at h

/-- EF.CONV of other polynomials and identifiers that the cache does not hold: the search of R275. -/
theorem exec_efConv_of_miss {dst a : DReg} {c : Ctx} (hA : A = s.efc c) (hB : B = s.efc (otherCtx c)) (hvA : A.valid = true)
    (hvB : B.valid = true) (hsrc : s.PolySource a) (hlen : s.len a = A.deg) (hdst : s.inOm dst) (hpoly : A.poly ≠ B.poly)
    (hn : A.n = B.n) (hid : A.fieldId ≠ B.fieldId) (hmiss : s.findCob A.fieldId B.fieldId = none) :
    exec (.efConv dst a c) s = afterChecks s s.checkCache (searchTurn s (rootCandidate A B) fun t r =>
      (t.appendCob A B (cobMatrix A B r)).storeConverted B dst (s.elem A a) (cobMatrix A B r)) := by
  subst hA hB
  have h := exec_of_afterChecks (i := .efConv dst a c) (s := s) rfl hvA
  have h := exec_of_afterChecks h hvB
  rw [checkElem_eq, bind_assoc] at h
  have h := exec_of_afterCheck (exec_of_afterChecks (exec_of_afterChecks h hsrc) hlen) hdst
  rw [if_neg hpoly] at h
  have h := exec_of_afterCheck (exec_of_afterChecks h hn) hid
  simp only [hmiss] at h
  exact h

end CachePairs

/-! ### The statements -/

/-- Settles O42: the checks in order, then one turn of the search; a root's matrix has independent rows, so its inverse exists. -/
theorem efCobAppendsAPair : Obligations.EfCobAppendsAPair := by
  unfold Obligations.EfCobAppendsAPair
  intro s c A B u r hA hB hu hr
  subst hA hB
  refine Outcome_afterChecks rfl fun hvA h => Outcome_afterChecks h fun hvB h => Outcome_afterChecks h fun hn h =>
    Outcome_afterChecks h fun _ h => Outcome_afterCheck h fun _ h => ?_
  obtain ⟨hlimit, hmiss⟩ := rootSearch_unsuccessful hu hr h
  refine ⟨hlimit, hmiss, fun hl hroot => ?_⟩
  have hdrawn := drawn_rootDraw hu (s.candidates + 1)
  have hlt : r < 2 ^ (s.efc (otherCtx c)).deg := hr ▸ Nat.mod_lt _ (Nat.two_pow_pos _)
  obtain ⟨hcob, hsf, hefc0, hefc1⟩ := hdrawn.appendCob_fields (s.efc c) (s.efc (otherCtx c))
    (cobMatrix (s.efc c) (s.efc (otherCtx c)) r)
  exact Completes_of (rootSearch_found hu hr h hl hroot rfl) ⟨_, _, hcob, rfl, rfl, rfl, cobMatrix_length _ _ r,
    fun j hj => rowAt_cobMatrix _ _ r hj, rfl, rfl, rfl, fun m hm => congrArg (Option.getD · []) hm,
    fun hokA hokB hirrA hirrB => cobMatrix_cobReverse hokA hokB hvA hvB hirrA hirrB (congrArg BitVec.toNat hn) hlt hroot,
    hsf, hefc0, hefc1, hdrawn.effect_appendCob _ _ _ _⟩

/-- Settles O44: the search follows two free entries; its root's matrix converts the element and is cached with its inverse. -/
theorem efConvSearchesAndCaches : Obligations.EfConvSearchesAndCaches := by
  unfold Obligations.EfConvSearchesAndCaches
  intro s dst a c A B u r hA hB hokA hokB hvA hvB hirrA hirrB hsrc hlen hdst hpoly hn hid hnew hu hr
  refine Outcome_afterCheck
    (exec_efConv_of_miss hA hB hvA hvB hsrc hlen hdst hpoly hn hid (findCob_eq_none hnew)) fun _ h => ?_
  obtain ⟨hlimit, hmiss⟩ := rootSearch_unsuccessful hu hr h
  have hdrawn := drawn_rootDraw hu (s.candidates + 1)
  refine ⟨hlimit, hmiss, fun hl hroot hcap => ?_, fun hl hroot hcap => ?_⟩
  · exact rootSearch_error hu hr h hl hroot (storeElem_of_not_fits ((hdrawn.cap dst).trans_lt hcap))
  · have hlt : r < 2 ^ B.deg := hr ▸ Nat.mod_lt _ (Nat.two_pow_pos _)
    have hx := vecMat_lt (cobMatrix_lt (A := A) hokB hvB hlt) B.deg (s.elem A a)
    obtain ⟨hcob, hsf, hefc0, hefc1⟩ := hdrawn.appendCob_fields A B (cobMatrix A B r)
    obtain ⟨hres, heffect⟩ := hdrawn.putElem_appendCob hx A (cobMatrix A B r) dst s.candidates
    obtain ⟨hright, hleft⟩ := cobMatrix_cobReverse hokA hokB hvA hvB hirrA hirrB (congrArg BitVec.toNat hn) hlt hroot
    exact Completes_of (rootSearch_found hu hr h hl hroot (storeElem_of_fits (hcap.trans (hdrawn.cap dst).ge)))
      ⟨_, _, hcob, rfl, rfl, rfl, rfl, rfl, rfl, fun j hj => rowAt_cobMatrix A B r hj, hright, hleft, hres, hsf, hefc0, hefc1,
        heffect⟩

end Sys2Proof.Machine

/-! ## Products and transposes of GF(2) matrices, entry by entry (45_gf2_matrix R301 to R303, R305)

The model sums rows, and the statements count pairs of ones: both are sums over `ZMod 2`. -/

namespace Sys2Proof.Machine

section Gf2Entries

variable {n r c k i j v : Nat} {a b m : List Nat}

/-! ### Parities -/

theorem gf2Bit_xorBits (n : Nat) (p : Nat → Bool) : gf2Bit (xorBits n p) = ∑ i ∈ Finset.range n, gf2Bit (p i) :=
  gf2Bit_parity n p

theorem parity_eq_xorBits (c v : Nat) : parity c v = xorBits c v.testBit := by
  have hbit (k : Nat) : (if v.testBit k then 1 else 0) < 2 ^ 1 ∧ gf2Bit ((if v.testBit k then 1 else 0).testBit 0)
      = gf2Bit (v.testBit k) := by
    cases v.testBit k <;> exact ⟨by decide, rfl⟩
  have hlt : xorSum c (fun k => if v.testBit k then 1 else 0) < 2 := xorSum_lt (k := 1) fun k _ => (hbit k).1
  have hlow : parity c v = (xorSum c (fun k => if v.testBit k then 1 else 0)).testBit 0 := by
    rw [parity, Nat.testBit_zero, beq_eq_decide, Nat.mod_eq_of_lt hlt]
  apply gf2Bit_injective
  rw [hlow, gf2Bit_xorBits]
  exact (map_xorSum (φ := fun x => gf2Bit (x.testBit 0)) (fun x y => by rw [Nat.testBit_xor, gf2Bit_xor]) c _).trans
    (Finset.sum_congr rfl fun k _ => (hbit k).2)

/-! ### Entries of the results -/

theorem testBit_vecMat (n v : Nat) (a : List Nat) (j : Nat) :
    (vecMat n v a).testBit j = xorBits n (fun k => v.testBit k && entry a k j) := by
  apply gf2Bit_injective
  rw [gf2Bit_vecMat, gf2Bit_xorBits]
  exact Finset.sum_congr rfl fun k _ => (gf2Bit_and _ _).symm

theorem testBit_matVec (hi : i < r) (c : Nat) (a : List Nat) (v : Nat) :
    (matVec r c a v).testBit i = xorBits c (fun k => entry a i k && v.testBit k) := by
  rw [matVec, testBit_bitString, decide_eq_true hi, Bool.true_and, parity_eq_xorBits]
  exact congrArg (xorBits c) (funext fun k => Nat.testBit_and _ _ k)

theorem entry_matMul (hi : i < r) (n : Nat) (a b : List Nat) (j : Nat) :
    entry (matMul r n a b) i j = xorBits n (fun k => entry a i k && entry b k j) := by
  rw [entry, matMul, rowAt_map_range _ hi, testBit_vecMat]
  rfl

theorem entry_transpose (hi : i < r) (hj : j < c) (a : List Nat) : entry (transpose r c a) j i = entry a i j := by
  rw [entry, transpose, rowAt_map_range _ hj, testBit_bitString, decide_eq_true hi, Bool.true_and]
  rfl

/-! ### Shapes -/

theorem mat2Shape_of_rows (hlen : m.length = r) (hm : ∀ row ∈ m, row < 2 ^ c) : Mat2Shape m r c := ⟨hlen, rowAt_lt hm⟩

theorem mat2Shape_map_range {f : Nat → Nat} (hf : ∀ i < r, f i < 2 ^ c) : Mat2Shape ((List.range r).map f) r c := by
  refine mat2Shape_of_rows (by simp) fun row hrow => ?_
  obtain ⟨i, hi, rfl⟩ := List.mem_map.1 hrow
  exact hf i (List.mem_range.1 hi)

theorem mat2Shape_matMul (hb : ∀ row ∈ b, row < 2 ^ c) (r n : Nat) (a : List Nat) : Mat2Shape (matMul r n a b) r c :=
  mat2Shape_map_range fun _ _ => vecMat_lt hb n _

theorem mat2Shape_transpose (r c : Nat) (a : List Nat) : Mat2Shape (transpose r c a) c r :=
  mat2Shape_map_range fun _ _ => bitString_lt r _

/-- A matrix is the list of its rows. -/
theorem Mat2Shape.map_rowAt_range (h : Mat2Shape m r c) : (List.range r).map (rowAt m) = m := by
  obtain ⟨rfl, -⟩ := h
  refine List.ext_getElem (by simp) fun i _ hi => ?_
  simp [rowAt, List.getD_eq_getElem?_getD, List.getElem?_eq_getElem hi]

/-! ### Inverses (R304) -/

theorem eliminateCols2_length {rows rows' : List (Nat × Nat)} (hrows : rows.length = n)
    (h : eliminateCols2 n rows c = some rows') : rows'.length = n := by
  cases c with
  | zero => rw [← Option.some.inj h, hrows]
  | succ c =>
    obtain ⟨mid, -, hlast⟩ := Option.bind_eq_some_iff.1 h
    unfold eliminate2 at hlast
    split at hlast
    · cases hlast
    · rw [← Option.some.inj hlast, List.length_map, List.length_range]

theorem mat2Shape_matInv (h : matInv n a = some m) : Mat2Shape m n n := by
  refine mat2Shape_of_rows ?_ (matInv_lt h)
  rw [matInv_eq] at h
  obtain ⟨rows, hrows, rfl⟩ := Option.map_eq_some_iff.1 h
  rw [List.length_map, eliminateCols2_length (by simp [startRows]) hrows]

/-- The left inverse the elimination ends with is a right inverse too. -/
theorem matMul_matInv_right (ha : ∀ row ∈ a, row < 2 ^ n) (h : matInv n a = some m) : matMul n n a m = identity n := by
  rw [matMul_eq_identity_iff (matInv_lt h), mul_eq_one_comm]
  exact (matMul_eq_identity_iff ha).1 (matMul_matInv ha h)

/-- A matrix with a right inverse takes no column vector but zero to zero, so every column has a pivot. -/
theorem matInv_ne_none (h : matMul n n a b = identity n) : matInv n a ≠ none := fun hnone => by
  obtain ⟨w, hw, hzero⟩ := exists_mulVec_eq_zero_of_matInv hnone
  have hright : gf2Matrix n a * gf2Matrix n b = 1 := by rw [← gf2Matrix_matMul, h, gf2Matrix_identity]
  apply hw
  calc w = (gf2Matrix n b * gf2Matrix n a).mulVec w := by rw [mul_eq_one_comm.1 hright, Matrix.one_mulVec]
    _ = 0 := by rw [← Matrix.mulVec_mulVec, hzero, Matrix.mulVec_zero]

end Gf2Entries

end Sys2Proof.Machine

/-! ## Commands that store a GF(2) matrix (20_memory R83, R87, R94; 45_gf2_matrix R300) -/

namespace Sys2Proof.Machine

section Mat2Stores

variable {i : Instr} {s : State} {d : DReg} {m : List Nat} {r c : Nat}

/-! ### Sources -/

theorem mat2_lt (s : State) (d : DReg) : ∀ row ∈ s.mat2 d, row < 2 ^ s.cols d := fun row hrow => by
  obtain ⟨k, -, rfl⟩ := List.mem_map.1 hrow
  exact Nat.mod_lt _ (Nat.two_pow_pos _)

theorem rows_lt (s : State) (d : DReg) : s.rows d < 2 ^ 32 := (s.D d).rows.isLt

theorem cols_lt (s : State) (d : DReg) : s.cols d < 2 ^ 32 := (s.D d).cols.isLt

theorem checkMat2_eq (s : State) (d : DReg) :
    s.checkMat2 d = (do check (s.Mat2Source d) .bounds; check (s.HasCells d) .dim) := by
  rw [State.checkMat2, checkSrc_eq]

/-- The checks of a matrix source: BOUNDS, then DIM. -/
theorem Outcome_checkMat2 {k : Unit → Except ErrCode State} {rest : List (Prop × ErrCode)} {last : Prop}
    (h : exec i s = finish s (s.checkMat2 d >>= k)) (hnext : exec i s = finish s (k ()) → Outcome i s rest last) :
    Outcome i s ((s.Mat2Source d, .bounds) :: (s.HasCells d, .dim) :: rest) last := by
  rw [checkMat2_eq, bind_assoc] at h
  exact Outcome_check h fun _ h => Outcome_check h fun _ h => hnext h

/-! ### One store -/

theorem complete_readNat (t : State) (j w k : Nat) : (t.complete j).readNat w k = t.readNat w k :=
  readNat_congr _ _ _ _ fun _ _ => rfl

/-- What `WriteMat2` stored reads back. -/
theorem mat2Result_putMat2 (hm : Mat2Shape m r c) (hr : r < 2 ^ 32) (hc : c < 2 ^ 32) :
    Mat2Result s ((s.putMat2 d m r c).complete 0) d m r c := by
  have hD : ((s.putMat2 d m r c).complete 0).D d = { s.D d with rows := BitVec.ofNat 32 r, cols := BitVec.ofNat 32 c } :=
    (putMat2_D s d d m r c).trans (if_pos rfl)
  have hbase : ((s.putMat2 d m r c).complete 0).base d = s.base d := by rw [State.base, hD]; rfl
  have hrows : ((s.putMat2 d m r c).complete 0).rows d = r :=
    (congrArg (fun D : Desc => D.rows.toNat) hD).trans ((BitVec.toNat_ofNat ..).trans (Nat.mod_eq_of_lt hr))
  have hcols : ((s.putMat2 d m r c).complete 0).cols d = c :=
    (congrArg (fun D : Desc => D.cols.toNat) hD).trans ((BitVec.toNat_ofNat ..).trans (Nat.mod_eq_of_lt hc))
  have hlt (i : Nat) : rowAt m i % 2 ^ c = rowAt m i := Nat.mod_eq_of_lt (hm.2 i)
  have hread (i : Nat) (hi : i < r) :
      ((s.putMat2 d m r c).complete 0).readNat (s.base d + i * wordsFor c) (wordsFor c) = rowAt m i := by
    rw [complete_readNat, putMat2_readNat s d m r c i hi, hlt]
  refine ⟨?_, hrows, hcols, hread, hD⟩
  rw [State.mat2, hbase, hrows, hcols]
  refine (List.map_congr_left fun i hi => ?_).trans hm.map_rowAt_range
  rw [hread i (List.mem_range.1 hi), hlt]

theorem effect_putMat2 (s : State) (d : DReg) (m : List Nat) (r c : Nat) :
    Effect s ((s.putMat2 d m r c).complete 0) 0 [] [d] [(s.base d, r * wordsFor c)] := by
  refine Effect_of rfl ⟨rfl, rfl, rfl, rfl, rfl, rfl⟩ (fun _ _ => rfl) (fun e he => ?_) (fun a ha => ?_) ⟨rfl, rfl, rfl⟩
    (fun _ => rfl)
  · rw [putMat2_D, if_neg (by simpa using he)]
  · exact putMat2_readByte s d m r c a (ha _ (List.mem_singleton_self _))

theorem storesAt_putMat2 (h : exec i s = finish s (.ok (s.putMat2 d m r c))) (hm : Mat2Shape m r c) (hr : r < 2 ^ 32)
    (hc : c < 2 ^ 32) : StoresAt i s d (r * wordsFor c) (fun t => Mat2Result s t d m r c) :=
  Completes_of h ⟨mat2Result_putMat2 hm hr hc, effect_putMat2 s d m r c, rfl, rfl, rfl, rfl⟩

/-! ### The zero test (R306) -/

/-- A matrix source is zero exactly where every stored entry is; the padding bits do not count. -/
theorem mat2_all_zero_iff (s : State) (d : DReg) : (s.mat2 d).all (· == 0) = true ↔ ∀ i j, i < s.rows d → j < s.cols d →
    (s.readNat (s.base d + i * wordsFor (s.cols d)) (wordsFor (s.cols d))).testBit j = false := by
  have hrow (v : Nat) : v % 2 ^ s.cols d = 0 ↔ ∀ j < s.cols d, v.testBit j = false := by
    constructor
    · intro h j hj
      have := congrArg (Nat.testBit · j) h
      simpa [Nat.testBit_mod_two_pow, hj] using this
    · intro h
      refine Nat.eq_of_testBit_eq fun j => ?_
      by_cases hj : j < s.cols d <;> simp [Nat.testBit_mod_two_pow, hj, h]
  simp only [State.mat2, List.all_map, List.all_eq_true, List.mem_range, Function.comp_apply, beq_iff_eq, hrow]
  exact forall_congr' fun i => ⟨fun h j hi hj => h hi j hj, fun h hi j hj => h j hi hj⟩

end Mat2Stores

/-! ### The statements -/

/-- Settles O45: the checks in order, then one store of rows that are sums of the rows of `B`. -/
theorem m2MulIsTheMatrixProduct : Obligations.M2MulIsTheMatrixProduct := by
  unfold Obligations.M2MulIsTheMatrixProduct
  intro s dst a b
  refine Outcome_checkMat2 rfl fun h => Outcome_checkMat2 h fun h => Outcome_check h fun _ h => Outcome_check h fun _ h =>
    Outcome_check h fun _ h => ?_
  have hshape := mat2Shape_matMul (mat2_lt s b) (s.rows a) (s.cols a) (s.mat2 a)
  exact ⟨_, hshape, fun i j hi _ => entry_matMul hi _ _ _ j, storesAt_putMat2 h hshape (rows_lt s a) (cols_lt s b)⟩

/-- Settles O46: a row vector times a matrix is a sum of rows, and a matrix times a column vector takes the parity of each row. -/
theorem m2VectorProducts : Obligations.M2VectorProducts := by
  unfold Obligations.M2VectorProducts
  intro s dst v m
  constructor
  · refine Outcome_checkPoly rfl fun _ h => Outcome_checkMat2 h fun h => Outcome_check h fun _ h => Outcome_check h fun _ h =>
      Outcome_check h fun _ h => ?_
    have hlt := vecMat_lt (mat2_lt s m) (s.rows m) (s.poly v)
    exact ⟨_, hlt, fun j _ => testBit_vecMat _ _ _ j, storesAt_putPoly h hlt (cols_lt s m)⟩
  · refine Outcome_checkMat2 rfl fun h => Outcome_checkPoly h fun _ h => Outcome_check h fun _ h => Outcome_check h fun _ h =>
      Outcome_check h fun _ h => ?_
    exact ⟨_, bitString_lt _ _, fun i hi => testBit_matVec hi _ _ _, storesAt_putPoly h (bitString_lt _ _) (rows_lt s m)⟩

/-- Settles O47: the elimination ends with a two-sided inverse, and finds no pivot only where there is no right inverse. -/
theorem m2InvIsTheTwoSidedInverse : Obligations.M2InvIsTheTwoSidedInverse := by
  unfold Obligations.M2InvIsTheTwoSidedInverse
  intro s dst a
  refine Outcome_checkMat2 rfl fun h => Outcome_check h fun _ h => Outcome_check h fun hsq h => ?_
  have ha := mat2_lt s a
  rw [← hsq] at ha
  cases hinv : matInv (s.rows a) (s.mat2 a) with
  | none =>
    simp only [hinv] at h
    exact ⟨fun _ => h, fun ⟨b, hb⟩ => absurd hinv (matInv_ne_none hb)⟩
  | some m =>
    simp only [hinv] at h
    have hright := matMul_matInv_right ha hinv
    have hshape := mat2Shape_matInv hinv
    exact Outcome_of_holds ⟨m, hright⟩ (Outcome_check h fun _ h =>
      ⟨m, hshape, hright, matMul_matInv ha hinv, storesAt_putMat2 h hshape (rows_lt s a) (rows_lt s a)⟩)

/-- Settles O48: the transpose is stored, and the zero test looks at the entries below COLS. -/
theorem m2TrnAndM2IszReadEveryEntry : Obligations.M2TrnAndM2IszReadEveryEntry := by
  unfold Obligations.M2TrnAndM2IszReadEveryEntry
  intro s dst a r
  constructor
  · refine Outcome_checkMat2 rfl fun h => Outcome_check h fun _ h => Outcome_check h fun _ h => ?_
    have hshape := mat2Shape_transpose (s.rows a) (s.cols a) (s.mat2 a)
    exact ⟨_, hshape, fun i j hi hj => entry_transpose hi hj _, storesAt_putMat2 h hshape (cols_lt s a) (rows_lt s a)⟩
  · refine Outcome_checkMat2 rfl fun h => ⟨fun hzero => ?_, fun i j hi hj hbit => ?_⟩
    · rw [if_pos ((mat2_all_zero_iff s a).2 hzero)] at h
      exact writesScalar_setS h
    · have hne : ¬ (s.mat2 a).all (· == 0) = true := fun hall => by
        simp [(mat2_all_zero_iff s a).1 hall i j hi hj] at hbit
      rw [if_neg hne] at h
      exact writesScalar_setS h

end Sys2Proof.Machine

/-! ## Byte images (20_memory R90; 45_gf2_matrix R307, R308) -/

namespace Sys2Proof.Machine

section ByteImages

variable {i : Instr} {s : State} {d : DReg} {bytes : List Byte} {n r c b k : Nat} {m : List Nat}

/-! ### Reading -/

/-- The check of an image source, as one condition. -/
theorem Outcome_checkImage {k : Unit → Except ErrCode State} {rest : List (Prop × ErrCode)} {last : Prop}
    (h : exec i s = finish s (s.checkImage d >>= k)) (hnext : exec i s = finish s (k ()) → Outcome i s rest last) :
    Outcome i s ((s.ImageSource d, .bounds) :: rest) last := by
  rw [State.checkImage, checkSrc_eq] at h
  exact Outcome_check h fun _ h => hnext h

/-- One check of a command, said by another condition. -/
theorem Outcome_check_iff {p q : Prop} [Decidable p] {e : ErrCode} {k : Unit → Except ErrCode State}
    {rest : List (Prop × ErrCode)} {last : Prop} (h : exec i s = finish s (check p e >>= k)) (hpq : p ↔ q)
    (hnext : q → exec i s = finish s (k ()) → Outcome i s rest last) : Outcome i s ((q, e) :: rest) last :=
  propext hpq ▸ Outcome_check h fun hp h => hnext (hpq.1 hp) h

theorem imageByte_lt (s : State) (w k : Nat) : s.imageByte w k < 2 ^ 8 := (s.readByte (4 * w + k)).isLt

/-- Bit `j` of a run of image bytes is bit `j mod 8` of its byte `j div 8`. -/
theorem testBit_imageNat (s : State) (w k q j : Nat) :
    (s.imageNat w k q).testBit j = (decide (j < 8 * q) && (s.imageByte w (k + j / 8)).testBit (j % 8)) := by
  induction q generalizing k j with
  | zero => simp [State.imageNat]
  | succ q ih =>
    rw [State.imageNat, Nat.add_comm, Nat.testBit_two_pow_mul_add _ (imageByte_lt s w k)]
    split
    · rename_i hj
      have hin : j < 8 * (q + 1) := by omega
      simp [hin, Nat.div_eq_of_lt hj, Nat.mod_eq_of_lt hj]
    · rename_i hj
      have hbyte : k + 1 + (j - 8) / 8 = k + j / 8 := by omega
      have hbit : (j - 8) % 8 = j % 8 := by omega
      have hin : j - 8 < 8 * q ↔ j < 8 * (q + 1) := by omega
      rw [ih, hbyte, hbit, decide_eq_decide.2 hin]

theorem le_eight_mul_rowBytes (c : Nat) : c ≤ 8 * rowBytes c := by
  unfold rowBytes
  omega

/-- The padding bits of an image row are 0 exactly where the row has the bits of its columns only (R307). -/
theorem imageNat_lt_iff (s : State) (w k c : Nat) : s.imageNat w k (rowBytes c) < 2 ^ c
    ↔ ∀ j, c ≤ j → j < 8 * rowBytes c → (s.imageByte w (k + j / 8)).testBit (j % 8) = false := by
  constructor
  · intro h j hc hj
    have hbit := Nat.testBit_lt_two_pow (h.trans_le (Nat.pow_le_pow_right Nat.two_pos hc))
    rwa [testBit_imageNat, decide_eq_true hj, Bool.true_and] at hbit
  · intro h
    refine Nat.lt_pow_two_of_testBit _ fun j hc => ?_
    rw [testBit_imageNat]
    by_cases hj : j < 8 * rowBytes c
    · rw [h j hc hj, Bool.and_false]
    · rw [decide_eq_false hj, Bool.false_and]

theorem imageRows_padding_iff (s : State) (w r c : Nat) :
    (s.imageRows w r (rowBytes c)).all (fun v => decide (v < 2 ^ c)) = true
      ↔ ∀ i j, i < r → c ≤ j → j < 8 * rowBytes c →
        (s.imageByte w (8 + i * rowBytes c + j / 8)).testBit (j % 8) = false := by
  simp only [State.imageRows, List.all_map, List.all_eq_true, List.mem_range, Function.comp_apply, decide_eq_true_eq,
    imageNat_lt_iff]
  exact forall_congr' fun i => ⟨fun h j hi hc hj => h hi j hc hj, fun h hi j hc hj => h j hi hc hj⟩

theorem mat2Shape_imageRows {w : Nat} (h : (s.imageRows w r (rowBytes c)).all (fun v => decide (v < 2 ^ c)) = true) :
    Mat2Shape (s.imageRows w r (rowBytes c)) r c := by
  refine mat2Shape_of_rows (by simp [State.imageRows]) fun row hrow => ?_
  exact of_decide_eq_true (List.all_eq_true.1 h row hrow)

theorem entry_imageRows {k j : Nat} (hk : k < r) (hj : j < c) (s : State) (w : Nat) :
    entry (s.imageRows w r (rowBytes c)) k j = (s.imageByte w (8 + k * rowBytes c + j / 8)).testBit (j % 8) := by
  have hin : j < 8 * rowBytes c := hj.trans_le (le_eight_mul_rowBytes c)
  rw [entry, State.imageRows, rowAt_map_range _ hk, testBit_imageNat, decide_eq_true hin, Bool.true_and]

/-! ### Bytes of numbers -/

theorem bytesOfNat_length (v q : Nat) : (bytesOfNat v q).length = q := by
  induction q generalizing v with
  | zero => rfl
  | succ q ih => rw [bytesOfNat, List.length_cons, ih]

theorem getElem?_bytesOfNat {q : Nat} (hk : k < q) (v : Nat) :
    (bytesOfNat v q)[k]? = some (BitVec.ofNat 8 (v / 2 ^ (8 * k))) := by
  induction q generalizing v k with
  | zero => omega
  | succ q ih =>
    cases k with
    | zero => simp [bytesOfNat]
    | succ k =>
      have hdiv : v >>> 8 / 2 ^ (8 * k) = v / 2 ^ (8 * (k + 1)) := by
        rw [Nat.shiftRight_eq_div_pow, Nat.div_div_eq_div_mul, ← Nat.pow_add, show 8 + 8 * k = 8 * (k + 1) by omega]
      rw [bytesOfNat, List.getElem?_cons_succ, ih (by omega), hdiv]

/-! ### The image of a GF(2) matrix (R308) -/

/-- The rows of an image, one after the other. -/
def rowImage (r c : Nat) (m : List Nat) : List Byte := (List.range r).flatMap fun i => bytesOfNat (rowAt m i) (rowBytes c)

/-- The image `M2.ENC` stores: the header of eight bytes and the rows. -/
def mat2Image (r c : Nat) (m : List Nat) : List Byte := bytesOfNat r 4 ++ bytesOfNat c 4 ++ rowImage r c m

theorem rowImage_length (r c : Nat) (m : List Nat) : (rowImage r c m).length = r * rowBytes c := by
  rw [rowImage, flatMap_blocks_length _ _ (rowBytes c) (fun _ _ => bytesOfNat_length _ _), List.length_range]

theorem header_length (r c : Nat) : (bytesOfNat r 4 ++ bytesOfNat c 4).length = 8 := by
  rw [List.length_append, bytesOfNat_length, bytesOfNat_length]

theorem mat2Image_length (r c : Nat) (m : List Nat) : (mat2Image r c m).length = 8 + r * rowBytes c := by
  rw [mat2Image, List.length_append, header_length, rowImage_length]

theorem getElem?_mat2Image_rows (hk : k < 4) (c : Nat) (m : List Nat) :
    (mat2Image r c m)[k]? = some (BitVec.ofNat 8 (r / 2 ^ (8 * k))) := by
  rw [mat2Image, List.getElem?_append_left (by rw [header_length]; omega),
    List.getElem?_append_left (by rwa [bytesOfNat_length]), getElem?_bytesOfNat hk]

theorem getElem?_mat2Image_cols (hk : k < 4) (r : Nat) (m : List Nat) :
    (mat2Image r c m)[4 + k]? = some (BitVec.ofNat 8 (c / 2 ^ (8 * k))) := by
  rw [mat2Image, List.getElem?_append_left (by rw [header_length]; omega),
    List.getElem?_append_right (by rw [bytesOfNat_length]; omega), bytesOfNat_length, Nat.add_sub_cancel_left,
    getElem?_bytesOfNat hk]

theorem getElem?_mat2Image_row (hk : k < r) (hb : b < rowBytes c) (m : List Nat) :
    (mat2Image r c m)[8 + k * rowBytes c + b]? = some (BitVec.ofNat 8 (rowAt m k / 2 ^ (8 * b))) := by
  have hpos : 8 + k * rowBytes c + b - 8 = k * rowBytes c + b := by omega
  rw [mat2Image, List.getElem?_append_right (by rw [header_length]; omega), header_length, hpos, rowImage,
    flatMap_blocks _ _ (rowBytes c) (fun _ _ => bytesOfNat_length _ _) k b hb, List.getElem?_range hk, Option.bind_some,
    getElem?_bytesOfNat hb]

/-- A byte of a list as a number. -/
theorem getD_map_toNat {v : Nat} (h : bytes[k]? = some (BitVec.ofNat 8 v)) : (bytes.map BitVec.toNat).getD k 0 = v % 256 := by
  rw [List.getD_eq_getElem?_getD, List.getElem?_map, h]
  exact BitVec.toNat_ofNat ..

/-! ### One store -/

/-- What `WriteImage` stored reads back byte by byte. -/
theorem imageResult_putImage (hlen : bytes.length < 2 ^ 32) :
    ImageResult s ((s.putImage d bytes).complete 0) d (bytes.map BitVec.toNat) := by
  have hD : ((s.putImage d bytes).complete 0).D d = { s.D d with len := BitVec.ofNat 32 bytes.length } :=
    (putImage_D s d d bytes).trans (if_pos rfl)
  unfold ImageResult
  rw [List.length_map]
  refine ⟨(congrArg (fun D : Desc => D.len.toNat) hD).trans ((BitVec.toNat_ofNat ..).trans (Nat.mod_eq_of_lt hlen)),
    fun k hk => ?_, hD⟩
  exact (congrArg BitVec.toNat (putImage_readByte_in s d bytes k hk)).trans (List.getD_map bytes 0 BitVec.toNat).symm

theorem effect_putImage (s : State) (d : DReg) (bytes : List Byte) :
    Effect s ((s.putImage d bytes).complete 0) 0 [] [d] [(s.base d, imageWords bytes.length)] := by
  refine Effect_of rfl ⟨rfl, rfl, rfl, rfl, rfl, rfl⟩ (fun _ _ => rfl) (fun e he => ?_) (fun a ha => ?_) ⟨rfl, rfl, rfl⟩
    (fun _ => rfl)
  · rw [putImage_D, if_neg (by simpa using he)]
  · exact putImage_readByte s d bytes a (ha _ (List.mem_singleton_self _))

/-- An image inside OM has a length LEN can hold (00_scope R6). -/
theorem imageLen_lt_of_fits (hp : s.params.legal = true) (hin : s.inOm d) (hfit : imageWords n ≤ s.cap d) : n < 2 ^ 32 := by
  simp only [Params.legal, Bool.and_eq_true, decide_eq_true_eq] at hp
  have hom : s.base d + s.cap d ≤ s.params.omWords.toNat := hin
  unfold imageWords at hfit
  omega

/-- An image of known length is stored where it fits (R94). -/
theorem storesAt_putImage (h : exec i s = finish s (.ok (s.putImage d bytes))) (hn : bytes.length = n) (hlen : n < 2 ^ 32) :
    StoresAt i s d (imageWords n) (fun t => ImageResult s t d (bytes.map BitVec.toNat)) := by
  subst hn
  exact Completes_of h ⟨imageResult_putImage hlen, effect_putImage s d bytes, rfl, rfl, rfl, rfl⟩

end ByteImages

/-! ### The statements -/

/-- Settles O49: the checks in order, the padding check said bit by bit, then one store of the image's rows. -/
theorem m2DecReadsTheImage : Obligations.M2DecReadsTheImage := by
  unfold Obligations.M2DecReadsTheImage
  intro s dst img byte r c bpr hbyte hr hc hbpr
  subst hbyte
  obtain rfl : r = s.imageWord (s.base img) 0 := hr
  obtain rfl : c = s.imageWord (s.base img) 4 := hc
  obtain rfl : bpr = rowBytes (s.imageWord (s.base img) 4) := hbpr
  refine Outcome_checkImage rfl fun h => Outcome_check h fun _ h => Outcome_check h fun _ h => Outcome_check h fun hrc h =>
    Outcome_check h fun _ h => Outcome_check_iff h (imageRows_padding_iff s _ _ _) fun hpad h => Outcome_check h fun _ h => ?_
  obtain ⟨-, hr, -, hc⟩ := hrc
  have hshape := mat2Shape_imageRows ((imageRows_padding_iff s _ _ _).2 hpad)
  exact ⟨_, hshape, fun i j hi hj => entry_imageRows hi hj s _, storesAt_putMat2 h hshape (by omega) (by omega)⟩

/-- Settles O50: the bytes stored are the header's and the rows', and legal parameters keep their number below `2^32`. -/
theorem m2EncWritesTheImage : Obligations.M2EncWritesTheImage := by
  unfold Obligations.M2EncWritesTheImage
  intro s img a hp
  have hlen := mat2Image_length (s.rows a) (s.cols a) (s.mat2 a)
  refine Outcome_checkMat2 rfl fun h => Outcome_check h fun hin h =>
    Outcome_check_iff h (iff_of_eq (congrArg (imageWords · ≤ s.cap img) hlen)) fun hfit h => ?_
  refine ⟨(mat2Image (s.rows a) (s.cols a) (s.mat2 a)).map BitVec.toNat, (List.length_map _).trans hlen, fun k hk => ?_,
    fun i b hi hb => ?_, storesAt_putImage h hlen (imageLen_lt_of_fits hp hin hfit)⟩
  · exact ⟨getD_map_toNat (getElem?_mat2Image_rows hk _ _), getD_map_toNat (getElem?_mat2Image_cols hk _ _)⟩
  · exact getD_map_toNat (getElem?_mat2Image_row hi hb _)

end Sys2Proof.Machine

/-! ## Matrices and images over the small field (20_memory R88, R90; 46_gf2m_matrix R330, R332 to R334) -/

namespace Sys2Proof.Machine

set_option Elab.async false

section MatMStores

variable {i : Instr} {s : State} {d : DReg} {m : List (List Nat)} {r c cb k j q : Nat}

/-! ### Sources -/

theorem checkMatM_eq (s : State) (d : DReg) :
    s.checkMatM d = (do check (s.MatMSource d) .bounds; check (s.HasCells d) .dim) := by
  rw [State.checkMatM, checkSrc_eq]

/-- The checks of a matrix source: BOUNDS, then DIM. -/
theorem Outcome_checkMatM {next : Unit → Except ErrCode State} {rest : List (Prop × ErrCode)} {last : Prop}
    (h : exec i s = finish s (s.checkMatM d >>= next)) (hnext : exec i s = finish s (next ()) → Outcome i s rest last) :
    Outcome i s ((s.MatMSource d, .bounds) :: (s.HasCells d, .dim) :: rest) last := by
  rw [checkMatM_eq, bind_assoc] at h
  exact Outcome_check h fun _ h => Outcome_check h fun _ h => hnext h

theorem elements_iff (s : State) (l : List Nat) :
    l.all (fun v => decide (v < 2 ^ s.sf.m.toNat)) = true ↔ s.Elements l := by
  simp only [List.all_eq_true, decide_eq_true_eq]

/-- The check that every number read is an element, as the condition of R88. -/
theorem Outcome_checkElems {l : List Nat} {next : Unit → Except ErrCode State} {rest : List (Prop × ErrCode)} {last : Prop}
    (h : exec i s = finish s (s.checkElems l >>= next))
    (hnext : s.Elements l → exec i s = finish s (next ()) → Outcome i s rest last) :
    Outcome i s ((s.Elements l, .illegalElem) :: rest) last :=
  Outcome_check_iff h (elements_iff s l) hnext

/-- A cell of a matrix given cell by cell. -/
theorem cellAt_map_range (hk : k < r) (hj : j < c) (f : Nat → Nat → Nat) :
    cellAt ((List.range r).map fun i => (List.range c).map fun j => f i j) k j = f k j := by
  rw [cellAt, getD_map_range _ _ hk, getD_map_range _ _ hj]

theorem cellAt_matM (hk : k < s.rows d) (hj : j < s.cols d) :
    cellAt (s.matM d) k j = (s.readWord (s.base d + k * s.cols d + j)).toNat :=
  cellAt_map_range hk hj _

/-- The cells of a matrix operand are the words R88 checks. -/
theorem cellAt_matM_mem (hk : k < s.rows d) (hj : j < s.cols d) : cellAt (s.matM d) k j ∈ s.matCells d := by
  have hin : k * s.cols d + j < s.rows d * s.cols d := by
    calc k * s.cols d + j < (k + 1) * s.cols d := by rw [Nat.succ_mul]; omega
      _ ≤ s.rows d * s.cols d := Nat.mul_le_mul_right _ hk
  rw [cellAt_matM hk hj, Nat.add_assoc]
  exact List.mem_map_of_mem (List.mem_map.2 ⟨_, List.mem_range.2 hin, rfl⟩)

/-- A configured field has at most 31 bits, so each of its elements fits a word (42 R200). -/
theorem SmallField.elem_lt_word {F : SmallField} (hok : F.ok = true) (hv : F.valid = true) {v : Nat}
    (h : v < 2 ^ F.m.toNat) : v < 2 ^ 32 := by
  simp only [SmallField.ok, if_pos hv, Bool.and_eq_true, decide_eq_true_eq] at hok
  obtain ⟨⟨⟨-, hm⟩, -⟩, -⟩ := hok
  exact h.trans_le (Nat.pow_le_pow_right Nat.two_pos (by omega))

/-! ### One store -/

/-- What `WriteMatM` stored reads back, for cells that fit a word. -/
theorem matMResult_putMatM (hm : ∀ i j, i < r → j < c → cellAt m i j < 2 ^ 32) (hr : r < 2 ^ 32) (hc : c < 2 ^ 32) :
    MatMResult s ((s.putMatM d m r c).complete 0) d m r c := by
  have hD : ((s.putMatM d m r c).complete 0).D d = { s.D d with rows := BitVec.ofNat 32 r, cols := BitVec.ofNat 32 c } :=
    (putMatM_D s d d m r c).trans (if_pos rfl)
  refine ⟨?_, ?_, fun i j hi hj => ?_, hD⟩
  · exact (congrArg (fun D : Desc => D.rows.toNat) hD).trans ((BitVec.toNat_ofNat ..).trans (Nat.mod_eq_of_lt hr))
  · exact (congrArg (fun D : Desc => D.cols.toNat) hD).trans ((BitVec.toNat_ofNat ..).trans (Nat.mod_eq_of_lt hc))
  · exact (congrArg BitVec.toNat (putMatM_readWord s d m r c i j hi hj)).trans
      ((BitVec.toNat_ofNat ..).trans (Nat.mod_eq_of_lt (hm i j hi hj)))

theorem effect_putMatM (s : State) (d : DReg) (m : List (List Nat)) (r c : Nat) :
    Effect s ((s.putMatM d m r c).complete 0) 0 [] [d] [(s.base d, r * c)] := by
  refine Effect_of rfl ⟨rfl, rfl, rfl, rfl, rfl, rfl⟩ (fun _ _ => rfl) (fun e he => ?_) (fun a ha => ?_) ⟨rfl, rfl, rfl⟩
    (fun _ => rfl)
  · rw [putMatM_D, if_neg (by simpa using he)]
  · exact putMatM_readByte s d m r c a (ha _ (List.mem_singleton_self _))

theorem storesAt_putMatM (h : exec i s = finish s (.ok (s.putMatM d m r c)))
    (hm : ∀ i j, i < r → j < c → cellAt m i j < 2 ^ 32) (hr : r < 2 ^ 32) (hc : c < 2 ^ 32) :
    StoresAt i s d (r * c) (fun t => MatMResult s t d m r c) :=
  Completes_of h ⟨matMResult_putMatM hm hr hc, effect_putMatM s d m r c, rfl, rfl, rfl, rfl⟩

/-! ### The image that is read (R333) -/

/-- A run of image bytes is the sum of its bytes, each by its place. -/
theorem imageNat_eq_sum (s : State) (w k q : Nat) :
    s.imageNat w k q = ((List.range q).map fun b => s.imageByte w (k + b) * 2 ^ (8 * b)).sum := by
  induction q generalizing k with
  | zero => rfl
  | succ q ih =>
    have hterm (b : Nat) : s.imageByte w (k + (b + 1)) * 2 ^ (8 * (b + 1))
        = 2 ^ 8 * (s.imageByte w (k + 1 + b) * 2 ^ (8 * b)) := by
      rw [Nat.mul_add, Nat.pow_add, show k + (b + 1) = k + 1 + b by omega]
      ring
    rw [State.imageNat, ih, List.range_succ_eq_map, List.map_cons, List.sum_cons, List.map_map, Function.comp_def]
    simp only [Nat.succ_eq_add_one, hterm, List.sum_map_mul_left]
    simp

theorem cellAt_imageCells (hk : k < r) (hj : j < c) (s : State) (w cb : Nat) :
    cellAt (s.imageCells w r c cb) k j = s.imageNat w (4 + (k * c + j) * cb) cb := cellAt_map_range hk hj _

theorem elements_imageCells_iff (s : State) (w r c cb : Nat) : s.Elements (s.imageCells w r c cb).flatten
    ↔ ∀ i j, i < r → j < c → s.imageNat w (4 + (i * c + j) * cb) cb < 2 ^ s.sf.m.toNat := by
  simp only [State.Elements, State.imageCells, List.mem_flatten, List.mem_map, List.mem_range]
  constructor
  · exact fun h i j hi hj => h _ ⟨_, ⟨i, hi, rfl⟩, List.mem_map.2 ⟨j, List.mem_range.2 hj, rfl⟩⟩
  · rintro h v ⟨row, ⟨i, hi, rfl⟩, hv⟩
    obtain ⟨j, hj, rfl⟩ := List.mem_map.1 hv
    exact h i j hi (List.mem_range.1 hj)

/-! ### The image that is written (R334) -/

/-- The cells of an image row by row, `cb` bytes each. -/
def cellImage (r c cb : Nat) (m : List (List Nat)) : List Byte :=
  (List.range r).flatMap fun i => (List.range c).flatMap fun j => bytesOfNat (cellAt m i j) cb

/-- The image `M2M.ENC` stores: the header of four bytes and the cells. -/
def matMImage (r c cb : Nat) (m : List (List Nat)) : List Byte := bytesOfNat r 4 ++ cellImage r c cb m

theorem cellImage_row_length (c cb : Nat) (m : List (List Nat)) (i : Nat) :
    ((List.range c).flatMap fun j => bytesOfNat (cellAt m i j) cb).length = c * cb := by
  rw [flatMap_blocks_length _ _ cb (fun _ _ => bytesOfNat_length _ _), List.length_range]

theorem matMImage_length (r c cb : Nat) (m : List (List Nat)) : (matMImage r c cb m).length = 4 + r * c * cb := by
  rw [matMImage, List.length_append, bytesOfNat_length, cellImage,
    flatMap_blocks_length _ _ (c * cb) (fun i _ => cellImage_row_length c cb m i), List.length_range, Nat.mul_assoc]

theorem getElem?_matMImage_rows (hk : k < 4) (r c cb : Nat) (m : List (List Nat)) :
    (matMImage r c cb m)[k]? = some (BitVec.ofNat 8 (r / 2 ^ (8 * k))) := by
  rw [matMImage, List.getElem?_append_left (by rwa [bytesOfNat_length]), getElem?_bytesOfNat hk]

/-- Byte `q` of a cell, behind the rows above it and the cells before it. -/
theorem getElem?_matMImage_cell (hk : k < r) (hj : j < c) (hq : q < cb) (m : List (List Nat)) :
    (matMImage r c cb m)[4 + (k * c + j) * cb + q]? = some (BitVec.ofNat 8 (cellAt m k j / 2 ^ (8 * q))) := by
  have hrow : j * cb + q < c * cb := by
    calc j * cb + q < (j + 1) * cb := by rw [Nat.succ_mul]; omega
      _ ≤ c * cb := Nat.mul_le_mul_right cb hj
  have hpos : 4 + (k * c + j) * cb + q = 4 + (k * (c * cb) + (j * cb + q)) := by ring
  rw [hpos, matMImage, List.getElem?_append_right (by rw [bytesOfNat_length]; omega), bytesOfNat_length,
    Nat.add_sub_cancel_left, cellImage,
    flatMap_blocks _ _ (c * cb) (fun i _ => cellImage_row_length c cb m i) k _ hrow, List.getElem?_range hk, Option.bind_some,
    flatMap_blocks _ _ cb (fun _ _ => bytesOfNat_length _ _) j q hq, List.getElem?_range hj, Option.bind_some,
    getElem?_bytesOfNat hq]

/-! ### The products (R332) -/

/-- A command that is the error NOT_IMPLEMENTED latches it and touches no operand. -/
theorem completes_notImplemented (h : exec i s = finish s (.error .notImplemented)) :
    Completes i s (fun t => t.phase = .idle ∧ t.status = { s.status with done := true, err := true, errcode := 0x14 }
      ∧ t.errcmd = s.cmd ∧ t.itercnt = 0 ∧ OperandsKept s t ∧ t.cmd = s.cmd ∧ t.cmdseq = s.cmdseq ∧ t.ie = s.ie
      ∧ t.itercap = s.itercap) :=
  Completes_of h ⟨rfl, rfl, rfl, by simp [State.latch, iterWord], ⟨rfl, rfl, rfl, rfl, rfl, rfl, rfl, rfl, rfl⟩,
    rfl, rfl, rfl, rfl⟩

end MatMStores

/-! ### The statements -/

/-- Settles O52: each of the four commands is the error alone. -/
theorem m2mProductsAreNotImplemented : Obligations.M2mProductsAreNotImplemented := by
  unfold Obligations.M2mProductsAreNotImplemented
  rintro s dst a b i (rfl | rfl | rfl | rfl)
  · exact completes_notImplemented rfl
  · exact completes_notImplemented rfl
  · exact completes_notImplemented rfl
  · exact completes_notImplemented rfl

/-- Settles O53: the checks in order, a cell said as the sum of its bytes, then one store of cells that each fit a word. -/
theorem m2mDecReadsTheImage : Obligations.M2mDecReadsTheImage := by
  unfold Obligations.M2mDecReadsTheImage
  intro s dst img byte cell r c cb hok hbyte hcb hr hc hcell
  subst hbyte
  obtain rfl : cb = s.sf.cellBytes := hcb
  obtain rfl : r = s.imageWord (s.base img) 0 := hr
  obtain rfl : cell = fun i j => s.imageNat (s.base img) (4 + (i * c + j) * s.sf.cellBytes) s.sf.cellBytes :=
    funext fun i => funext fun j => (hcell i j).trans (imageNat_eq_sum s _ _ _).symm
  have hlen : c < 2 ^ 32 := hc ▸ ((Nat.div_le_self _ _).trans (Nat.sub_le _ _)).trans_lt (s.D img).len.isLt
  subst hc
  refine Outcome_check rfl fun hv h => Outcome_checkImage h fun h => Outcome_check h fun _ h => Outcome_check h fun _ h =>
    Outcome_check h fun hrows h => Outcome_check h fun _ h =>
    Outcome_check_iff h ((elements_iff s _).trans (elements_imageCells_iff s _ _ _ _)) fun helem h =>
    Outcome_check h fun _ h => ?_
  refine ⟨_, fun i j hi hj => cellAt_imageCells hi hj s _ _, storesAt_putMatM h (fun i j hi hj => ?_) (by omega) hlen⟩
  rw [cellAt_imageCells hi hj]
  exact SmallField.elem_lt_word hok hv (helem i j hi hj)

/-- Settles O54: the bytes stored are the header's and the cells', and legal parameters keep their number below `2^32`. -/
theorem m2mEncWritesTheImage : Obligations.M2mEncWritesTheImage := by
  unfold Obligations.M2mEncWritesTheImage
  intro s img a cb hp hok hcb
  obtain rfl : cb = s.sf.cellBytes := hcb
  have hlen := matMImage_length (s.rows a) (s.cols a) s.sf.cellBytes (s.matM a)
  refine Outcome_check rfl fun _ h => Outcome_checkMatM h fun h => Outcome_check h fun hin h => Outcome_checkElems h fun _ h =>
    Outcome_check_iff h (iff_of_eq (congrArg (imageWords · ≤ s.cap img) hlen)) fun hfit h => ?_
  refine ⟨(matMImage (s.rows a) (s.cols a) s.sf.cellBytes (s.matM a)).map BitVec.toNat, (List.length_map _).trans hlen,
    fun k hk => getD_map_toNat (getElem?_matMImage_rows hk _ _ _ _), fun i j q hi hj hq => ?_,
    storesAt_putImage h hlen (imageLen_lt_of_fits hp hin hfit)⟩
  rw [← cellAt_matM hi hj]
  exact getD_map_toNat (getElem?_matMImage_cell hi hj hq _)

end Sys2Proof.Machine

/-! ## Inverses of matrices over the small field (46_gf2m_matrix R331)

The cells stand for elements of a field, so a row pair of the elimination is a vector. A column of the elimination keeps the
submodules all rows lie in: at the end the right halves are a left inverse, and where there is no pivot the matrix takes some
column vector to zero. -/

namespace Sys2Proof.Machine

set_option Elab.async false

/-- `φ` carries the elements of a small field to a field, one to one, with their sum, product and one (42 R200, R203, R204). -/
structure SmallField.Represents (F : SmallField) {K : Type} [Field K] (φ : Nat → K) : Prop where
  xor : ∀ a b, φ (a ^^^ b) = φ a + φ b
  mul : ∀ a b, φ (F.mul a b) = φ a * φ b
  one : φ 1 = 1
  inj : ∀ a b, a < 2 ^ F.m.toNat → b < 2 ^ F.m.toNat → φ a = φ b → a = b

/-- A row of the elimination: a row of the matrix and the row of the right half beside it, as vectors. -/
abbrev VectorPair (n : Nat) (K : Type) : Type := (Fin n → K) × (Fin n → K)

section SmallFieldMatrices

variable {F : SmallField} {K : Type} [Field K] {φ : Nat → K} {n : Nat}

/-! ### The field -/

/-- A configured small field is the classes modulo its polynomial. -/
theorem SmallField.exists_represents (hok : F.ok = true) (hv : F.valid = true) (hirr : PolyIrreducible F.poly.toNat) :
    ∃ (K : Type) (_ : Field K) (_ : CharP K 2) (φ : Nat → K), F.Represents φ := by
  have := Fact.mk (polyIrreducible_iff.1 hirr)
  exact ⟨AdjoinRoot (gf2Poly F.poly.toNat), inferInstance,
    charP_of_injective_algebraMap (algebraMap (ZMod 2) (AdjoinRoot (gf2Poly F.poly.toNat))).injective 2,
    residue F.poly.toNat, residue_xor _, F.residue_mul, residue_one _,
    fun _ _ ha hb => eq_of_residue_eq (F.bounds_of_ok hok hv).2 ha hb⟩

theorem SmallField.mul_inv (hok : F.ok = true) (hv : F.valid = true) (hirr : PolyIrreducible F.poly.toNat) {x : Nat}
    (hx : x < 2 ^ F.m.toNat) (h0 : x ≠ 0) : F.mul x (F.inv x) = 1 := by
  refine eq_of_residue_eq (F.bounds_of_ok hok hv).2 (F.mul_lt hok hv _ _) (F.one_lt hok hv) ?_
  rw [SmallField.mul, residue_polyMod]
  exact residue_eq_iff.2 (F.polyDvd_mul_inv hok hv hirr hx h0)

theorem SmallField.Represents.zero [CharP K 2] (hrep : F.Represents φ) : φ 0 = 0 :=
  (hrep.xor 0 0).trans (CharTwo.add_self_eq_zero _)

/-! ### Products as matrices -/

/-- The `n × n` matrix over the field that a matrix of cells stands for. -/
def fieldMatrix (φ : Nat → K) (n : Nat) (a : List (List Nat)) : Matrix (Fin n) (Fin n) K := .of fun i j => φ (cellAt a i j)

theorem map_prodCell [CharP K 2] (hrep : F.Represents φ) (a b : List (List Nat)) (i j : Fin n) :
    φ (F.prodCell n a b i j) = (fieldMatrix φ n a * fieldMatrix φ n b) i j := by
  rw [SmallField.prodCell, map_xorSum hrep.xor, Matrix.mul_apply]
  simp only [hrep.mul]
  exact (Fin.sum_univ_eq_sum_range (fun k => φ (cellAt a i k) * φ (cellAt b k j)) n).symm

theorem map_one_apply [CharP K 2] (hrep : F.Represents φ) (i j : Fin n) :
    φ (if (i : Nat) = j then 1 else 0) = (1 : Matrix (Fin n) (Fin n) K) i j := by
  rw [Matrix.one_apply, apply_ite φ, hrep.one, hrep.zero]
  exact if_congr Fin.val_inj rfl rfl

/-- The product of cells is the identity exactly where the product over the field is. -/
theorem prodCell_eq_identity_iff [CharP K 2] (hrep : F.Represents φ) (hok : F.ok = true) (hv : F.valid = true)
    (a b : List (List Nat)) : (∀ i j, i < n → j < n → F.prodCell n a b i j = if i = j then 1 else 0)
      ↔ fieldMatrix φ n a * fieldMatrix φ n b = 1 := by
  have hlt (i j : Nat) : F.prodCell n a b i j < 2 ^ F.m.toNat := xorSum_lt fun k _ => F.mul_lt hok hv _ _
  have hite (i j : Nat) : (if i = j then 1 else 0) < 2 ^ F.m.toNat := by
    have := F.one_lt hok hv
    split <;> omega
  constructor
  · intro h
    ext i j
    rw [← map_prodCell hrep, h i j i.isLt j.isLt, map_one_apply hrep]
  · intro h i j hi hj
    refine hrep.inj _ _ (hlt i j) (hite i j) ?_
    rw [map_prodCell hrep a b ⟨i, hi⟩ ⟨j, hj⟩, h, ← map_one_apply hrep]

/-! ### Row operations -/

/-- Both halves of a row times `v`. -/
def scalePair (F : SmallField) (n v : Nat) (x : List Nat × List Nat) : List Nat × List Nat :=
  (scaleRow F n v x.1, scaleRow F n v x.2)

/-- A row with its entry in column `c` cleared by the pivot row `y`, in both halves. -/
def clearPair (F : SmallField) (n c : Nat) (x y : List Nat × List Nat) : List Nat × List Nat :=
  if x.1.getD c 0 ≠ 0 then (addScaledRow F n (x.1.getD c 0) x.1 y.1, addScaledRow F n (x.1.getD c 0) x.2 y.2) else x

/-- The first `n` cells of a row as a vector over the field. -/
def cellVector (φ : Nat → K) (n : Nat) (row : List Nat) : Fin n → K := fun j => φ (row.getD j 0)

/-- Both halves of a row as vectors over the field. -/
def pairVector (φ : Nat → K) (n : Nat) (x : List Nat × List Nat) : VectorPair n K :=
  (cellVector φ n x.1, cellVector φ n x.2)

theorem cellVector_scaleRow (hrep : F.Represents φ) (v : Nat) (row : List Nat) :
    cellVector φ n (scaleRow F n v row) = φ v • cellVector φ n row := by
  funext j
  rw [cellVector, scaleRow, getD_map_range _ _ j.isLt, hrep.mul]
  rfl

theorem cellVector_addScaledRow (hrep : F.Represents φ) (f : Nat) (row piv : List Nat) :
    cellVector φ n (addScaledRow F n f row piv) = cellVector φ n row + φ f • cellVector φ n piv := by
  funext j
  rw [cellVector, addScaledRow, getD_map_range _ _ j.isLt, hrep.xor, hrep.mul]
  rfl

theorem pairVector_scalePair (hrep : F.Represents φ) (v : Nat) (x : List Nat × List Nat) :
    pairVector φ n (scalePair F n v x) = φ v • pairVector φ n x :=
  Prod.ext (cellVector_scaleRow hrep v x.1) (cellVector_scaleRow hrep v x.2)

theorem pairVector_clearPair [CharP K 2] (hrep : F.Represents φ) (c : Fin n) (x y : List Nat × List Nat) :
    pairVector φ n (clearPair F n c x y) = pairVector φ n x + (pairVector φ n x).1 c • pairVector φ n y := by
  unfold clearPair
  split
  · exact Prod.ext (cellVector_addScaledRow hrep _ x.1 y.1) (cellVector_addScaledRow hrep _ x.2 y.2)
  · rename_i hzero
    have hcell : (pairVector φ n x).1 c = 0 := (congrArg φ (not_not.1 hzero)).trans hrep.zero
    rw [hcell, zero_smul, add_zero]

/-- The first `n` cells of both halves are elements. -/
def ElementPair (F : SmallField) (n : Nat) (x : List Nat × List Nat) : Prop :=
  ∀ j < n, x.1.getD j 0 < 2 ^ F.m.toNat ∧ x.2.getD j 0 < 2 ^ F.m.toNat

theorem elementPair_scalePair (hok : F.ok = true) (hv : F.valid = true) (v : Nat) (x : List Nat × List Nat) :
    ElementPair F n (scalePair F n v x) := fun j hj => by
  rw [scalePair, scaleRow, scaleRow, getD_map_range _ _ hj, getD_map_range _ _ hj]
  exact ⟨F.mul_lt hok hv _ _, F.mul_lt hok hv _ _⟩

theorem ElementPair.clearPair {x : List Nat × List Nat} (hx : ElementPair F n x) (hok : F.ok = true) (hv : F.valid = true)
    (c : Nat) (y : List Nat × List Nat) : ElementPair F n (clearPair F n c x y) := fun j hj => by
  obtain ⟨hleft, hright⟩ := hx j hj
  unfold Machine.clearPair
  split
  · rw [addScaledRow, addScaledRow, getD_map_range _ _ hj, getD_map_range _ _ hj]
    exact ⟨Nat.xor_lt_two_pow hleft (F.mul_lt hok hv _ _), Nat.xor_lt_two_pow hright (F.mul_lt hok hv _ _)⟩
  · exact ⟨hleft, hright⟩

/-! ### One column, over the field -/

/-- What a column does to the rows: the pivot row `p` is scaled to a leading 1 and exchanged up to row `c`, and it clears the
column in the other rows (R331). -/
structure PivotStep (c p : Fin n) (v : K) (u u' : Fin n → VectorPair n K) : Prop where
  le : c ≤ p
  unit : v * (u p).1 c = 1
  pivot : u' c = v • u p
  other : ∀ r, r ≠ c → u' r = u (Equiv.swap c p r) + (u (Equiv.swap c p r)).1 c • u' c

/-- The columns below `c` are unit vectors. -/
def HasUnitColumns (c : Nat) (u : Fin n → VectorPair n K) : Prop :=
  ∀ k : Fin n, (k : Nat) < c → ∀ r, (u r).1 k = if r = k then 1 else 0

section Column

variable {c p : Fin n} {v : K} {u u' : Fin n → VectorPair n K}

/-- A column keeps and brings in nothing but combinations of rows. -/
theorem PivotStep.forall_mem_iff (h : PivotStep c p v u u') (W : Submodule K (VectorPair n K)) :
    (∀ r, u' r ∈ W) ↔ ∀ r, u r ∈ W := by
  have hv0 : v ≠ 0 := left_ne_zero_of_mul_eq_one h.unit
  have hpivot : u' c ∈ W ↔ u p ∈ W := by rw [h.pivot, W.smul_mem_iff hv0]
  have hother (hc : u' c ∈ W) (r : Fin n) : u' r ∈ W ↔ u (Equiv.swap c p r) ∈ W := by
    by_cases hr : r = c
    · rw [hr, Equiv.swap_apply_left, hpivot]
    · rw [h.other r hr, W.add_mem_iff_left (W.smul_mem _ hc)]
  constructor
  · exact fun hnew => (Equiv.swap c p).surjective.forall.2 fun r => (hother (hnew c) r).1 (hnew r)
  · exact fun hold r => (hother (hpivot.2 (hold p)) r).2 (hold _)

/-- A column becomes a unit vector, and the unit vectors before it stay. -/
theorem HasUnitColumns.step [CharP K 2] (hu : HasUnitColumns c u) (h : PivotStep c p v u u') :
    HasUnitColumns (c + 1) u' := by
  intro k hk r
  rcases Nat.eq_or_lt_of_le (Nat.lt_succ_iff.1 hk) with heq | hlt
  · obtain rfl := Fin.ext heq
    have hone : (u' k).1 k = 1 := by
      rw [h.pivot]
      exact h.unit
    by_cases hr : r = k
    · rw [hr, hone, if_pos rfl]
    · rw [h.other r hr, if_neg hr]
      calc (u (Equiv.swap k p r)).1 k + (u (Equiv.swap k p r)).1 k * (u' k).1 k
          = (u (Equiv.swap k p r)).1 k + (u (Equiv.swap k p r)).1 k := by rw [hone, mul_one]
        _ = 0 := CharTwo.add_self_eq_zero _
  · have hpk : p ≠ k := fun e => absurd h.le (by rw [e]; exact not_le.2 hlt)
    have hck : c ≠ k := fun e => absurd hlt (by rw [e]; exact lt_irrefl _)
    have hzero : (u' c).1 k = 0 := by
      rw [h.pivot]
      exact (congrArg (v * ·) ((hu k hlt p).trans (if_neg hpk))).trans (mul_zero v)
    by_cases hr : r = c
    · rw [hr, hzero, if_neg hck]
    · have hswap : Equiv.swap c p r = k ↔ r = k := by
        rw [Equiv.swap_apply_eq_iff, Equiv.swap_apply_of_ne_of_ne hck.symm hpk.symm]
      rw [h.other r hr]
      calc (u (Equiv.swap c p r)).1 k + (u (Equiv.swap c p r)).1 c * (u' c).1 k
          = (u (Equiv.swap c p r)).1 k := by rw [hzero, mul_zero, add_zero]
        _ = if r = k then 1 else 0 := by rw [hu k hlt, if_congr hswap rfl rfl]

/-- The column vector that rows with unit columns below `c` and no pivot in column `c` take to zero: it says that column `c` is the
combination of the unit columns that its own entries name. -/
def dependency (u : Fin n → VectorPair n K) (c : Fin n) : Fin n → K :=
  Pi.single c 1 - fun k => if k < c then (u k).1 c else 0

theorem dependency_ne_zero (u : Fin n → VectorPair n K) (c : Fin n) : dependency u c ≠ 0 := fun h => by
  have := congrFun h c
  simp [dependency] at this

theorem HasUnitColumns.dotProduct_dependency (hu : HasUnitColumns c u) (hpivot : ∀ r, c ≤ r → (u r).1 c = 0) (r : Fin n) :
    (u r).1 ⬝ᵥ dependency u c = 0 := by
  have hterm (k : Fin n) : (u r).1 k * (if k < c then (u k).1 c else 0)
      = if r = k then (if k < c then (u k).1 c else 0) else 0 := by
    by_cases hk : k < c
    · rw [hu k hk r, ite_mul, one_mul, zero_mul]
    · rw [if_neg hk, mul_zero, ite_self]
  have hsum : ((u r).1 ⬝ᵥ fun k => if k < c then (u k).1 c else 0) = if r < c then (u r).1 c else 0 := by
    rw [dotProduct, Finset.sum_congr rfl fun k _ => hterm k, Finset.sum_ite_eq, if_pos (Finset.mem_univ r)]
  rw [dependency, dotProduct_sub, dotProduct_single_one, hsum]
  split
  · exact sub_self _
  · rename_i hr
    rw [hpivot r (not_lt.1 hr), sub_zero]

end Column

/-! ### One column, of the model -/

variable {rows rows' : List (List Nat × List Nat)} {c : Nat}

/-- Row `r` of the elimination. -/
def cellPairAt (rows : List (List Nat × List Nat)) (r : Nat) : List Nat × List Nat := rows.getD r ([], [])

/-- The rows of the elimination as vectors over the field. -/
def rowVectors (φ : Nat → K) (n : Nat) (rows : List (List Nat × List Nat)) : Fin n → VectorPair n K :=
  fun r => pairVector φ n (cellPairAt rows r)

theorem cellPairAt_swapRows {r : Nat} (p : Nat) (hr : r < n) :
    cellPairAt (swapRows ([], []) n c p rows) r = cellPairAt rows (Equiv.swap c p r) := by
  rw [cellPairAt, swapRows, getD_map_range _ _ hr, Equiv.swap_apply_def]
  split
  · rfl
  · split
    · rfl
    · rfl

/-- A column finds a pivot, scales it, exchanges it up and clears the column in the other rows (R331). -/
theorem eliminateM_eq_some (hc : c < n) (h : eliminateM F n c rows = some rows') :
    ∃ p, c ≤ p ∧ p < n ∧ (cellPairAt rows p).1.getD c 0 ≠ 0
      ∧ cellPairAt rows' c = scalePair F n (F.inv ((cellPairAt rows p).1.getD c 0)) (cellPairAt rows p)
      ∧ ∀ r < n, r ≠ c → cellPairAt rows' r = clearPair F n c (cellPairAt rows (Equiv.swap c p r)) (cellPairAt rows' c) := by
  unfold eliminateM at h
  split at h
  · cases h
  · rename_i p hp
    obtain ⟨hle, hlt, hcell⟩ := leastFrom_some (Nat.sub_le n c) hp
    have hpiv := cellPairAt_swapRows (rows := rows) (c := c) p hc
    rw [Equiv.swap_apply_left] at hpiv
    obtain rfl := Option.some.inj h
    refine ⟨p, by omega, hlt, bne_iff_ne.1 hcell, ?_, fun r hr hrc => ?_⟩
    · rw [← hpiv, cellPairAt, getD_map_range _ _ hc, if_pos rfl]
      rfl
    · rw [← cellPairAt_swapRows p hr, cellPairAt, getD_map_range _ _ hr, if_neg hrc, cellPairAt.eq_def _ c,
        getD_map_range _ _ hc, if_pos rfl]
      rfl

theorem eliminateM_eq_none (hc : c ≤ n) (h : eliminateM F n c rows = none) {r : Nat} (hle : c ≤ r) (hlt : r < n) :
    (cellPairAt rows r).1.getD c 0 = 0 := by
  unfold eliminateM at h
  split at h
  · rename_i hnone
    simpa using leastFrom_none (p := fun r => (cellPairAt rows r).1.getD c 0 != 0) hnone (by omega) hlt
  · cases h

/-- What the columns below `c` leave. -/
structure Reduced (F : SmallField) (φ : Nat → K) (n c : Nat) (rows rows' : List (List Nat × List Nat)) : Prop where
  elements : ∀ r < n, ElementPair F n (cellPairAt rows' r)
  unit : HasUnitColumns c (rowVectors φ n rows')
  mem_iff : ∀ W : Submodule K (VectorPair n K), (∀ r, rowVectors φ n rows' r ∈ W) ↔ ∀ r, rowVectors φ n rows r ∈ W

section Configured

variable (hok : F.ok = true) (hv : F.valid = true)
include hok hv

/-- A column keeps cells that are elements. -/
theorem elementPair_eliminateM (hc : c < n) (hrows : ∀ r < n, ElementPair F n (cellPairAt rows r))
    (h : eliminateM F n c rows = some rows') : ∀ r < n, ElementPair F n (cellPairAt rows' r) := by
  obtain ⟨p, -, hp, -, hpivot, hother⟩ := eliminateM_eq_some hc h
  intro r hr
  by_cases hrc : r = c
  · rw [hrc, hpivot]
    exact elementPair_scalePair hok hv _ _
  · have hswap : Equiv.swap c p r < n := by
      rw [Equiv.swap_apply_def]
      split_ifs <;> assumption
    rw [hother r hr hrc]
    exact (hrows _ hswap).clearPair hok hv _ _

variable [CharP K 2] (hrep : F.Represents φ) (hirr : PolyIrreducible F.poly.toNat)
include hrep hirr

/-- Over the field a column is a pivot step: the pivot cell is not 0, so it times its inverse is 1. -/
theorem pivotStep_eliminateM (hc : c < n) (hrows : ∀ r < n, ElementPair F n (cellPairAt rows r))
    (h : eliminateM F n c rows = some rows') :
    ∃ p v, PivotStep ⟨c, hc⟩ p v (rowVectors φ n rows) (rowVectors φ n rows') := by
  obtain ⟨p, hle, hp, hne, hpivot, hother⟩ := eliminateM_eq_some hc h
  obtain ⟨hcell, -⟩ := hrows p hp c hc
  refine ⟨⟨p, hp⟩, φ (F.inv ((cellPairAt rows p).1.getD c 0)), hle, ?_, ?_, fun r hr => ?_⟩
  · rw [mul_comm]
    exact (hrep.mul _ _).symm.trans ((congrArg φ (F.mul_inv hok hv hirr hcell hne)).trans hrep.one)
  · exact (congrArg (pairVector φ n) hpivot).trans (pairVector_scalePair hrep _ _)
  · have hrow := hother r r.isLt (fun e => hr (Fin.ext e))
    have hswap : Equiv.swap c p r = (Equiv.swap (⟨c, hc⟩ : Fin n) ⟨p, hp⟩ r : Nat) := by
      simp only [Equiv.swap_apply_def, apply_ite Fin.val, Fin.ext_iff]
    rw [hswap] at hrow
    exact (congrArg (pairVector φ n) hrow).trans (pairVector_clearPair hrep ⟨c, hc⟩ _ _)

/-! ### All columns -/

theorem reduced_eliminateColsM (hc : c ≤ n) (hrows : ∀ r < n, ElementPair F n (cellPairAt rows r))
    (h : eliminateColsM F n rows c = some rows') : Reduced F φ n c rows rows' := by
  induction c generalizing rows' with
  | zero =>
    obtain rfl := Option.some.inj h
    exact ⟨hrows, fun k hk => absurd hk (Nat.not_lt_zero k), fun _ => Iff.rfl⟩
  | succ c ih =>
    obtain ⟨mid, hmid, hlast⟩ := Option.bind_eq_some_iff.1 h
    obtain ⟨helem, hunit, hmem⟩ := ih (Nat.le_of_succ_le hc) hmid
    obtain ⟨p, v, hstep⟩ := pivotStep_eliminateM hok hv hrep hirr hc helem hlast
    exact ⟨elementPair_eliminateM hok hv hc helem hlast, HasUnitColumns.step (c := ⟨c, hc⟩) hunit hstep,
      fun W => (hstep.forall_mem_iff W).trans (hmem W)⟩

end Configured

/-- An elimination that stops does so in one of its columns. -/
theorem exists_eliminateM_eq_none (h : eliminateColsM F n rows c = none) :
    ∃ k mid, k < c ∧ eliminateColsM F n rows k = some mid ∧ eliminateM F n k mid = none := by
  induction c with
  | zero => cases h
  | succ c ih =>
    cases hmid : eliminateColsM F n rows c with
    | none =>
      obtain ⟨k, mid, hk, hrest⟩ := ih hmid
      exact ⟨k, mid, by omega, hrest⟩
    | some mid =>
      rw [eliminateColsM, hmid, Option.bind_some] at h
      exact ⟨c, mid, Nat.lt_succ_self c, hmid, h⟩

/-! ### The inverse -/

/-- The rows the elimination starts from: the matrix and the identity (R331). -/
def startPairs (n : Nat) (a : List (List Nat)) : List (List Nat × List Nat) :=
  (List.range n).map fun i => (a.getD i [], (List.range n).map fun j => if i = j then 1 else 0)

theorem matInvM_eq (F : SmallField) (n : Nat) (a : List (List Nat)) :
    matInvM F n a = (eliminateColsM F n (startPairs n a) n).map fun l => l.map Prod.snd := rfl

theorem cellPairAt_startPairs {r : Nat} (hr : r < n) (a : List (List Nat)) :
    cellPairAt (startPairs n a) r = (a.getD r [], (List.range n).map fun j => if r = j then 1 else 0) :=
  getD_map_range _ _ hr

theorem elementPair_startPairs (hok : F.ok = true) (hv : F.valid = true) {a : List (List Nat)}
    (ha : ∀ i j, i < n → j < n → cellAt a i j < 2 ^ F.m.toNat) :
    ∀ r < n, ElementPair F n (cellPairAt (startPairs n a) r) := by
  intro r hr j hj
  have := F.one_lt hok hv
  rw [cellPairAt_startPairs hr, getD_map_range _ _ hj]
  refine ⟨ha r j hr hj, ?_⟩
  split <;> omega

theorem rowVectors_startPairs [CharP K 2] (hrep : F.Represents φ) (a : List (List Nat)) (r : Fin n) :
    rowVectors φ n (startPairs n a) r = ((fieldMatrix φ n a).row r, Pi.single r 1) := by
  rw [rowVectors, cellPairAt_startPairs r.isLt]
  refine Prod.ext rfl (funext fun j => ?_)
  exact (congrArg φ (getD_map_range _ _ j.isLt)).trans ((map_one_apply hrep r j).trans Matrix.one_eq_pi_single)

theorem cellAt_map_snd (rows : List (List Nat × List Nat)) (i j : Nat) :
    cellAt (rows.map Prod.snd) i j = (cellPairAt rows i).2.getD j 0 :=
  congrArg (fun row : List Nat => row.getD j 0) (List.getD_map rows ([], []) Prod.snd)

/-- The row pairs whose left half is the combination of the rows of `A` that the right half names. -/
def combinations (A : Matrix (Fin n) (Fin n) K) : Submodule K (VectorPair n K) where
  carrier := {x | x.1 = Matrix.vecMul x.2 A}
  add_mem' hx hy := (congrArg₂ (· + ·) hx hy).trans (Matrix.add_vecMul A _ _).symm
  zero_mem' := (Matrix.zero_vecMul A).symm
  smul_mem' v x hx := (congrArg (v • ·) hx).trans (Matrix.smul_vecMul v x.2 A).symm

theorem mem_combinations {A : Matrix (Fin n) (Fin n) K} {x : VectorPair n K} :
    x ∈ combinations A ↔ x.1 = Matrix.vecMul x.2 A := Iff.rfl

/-- The row pairs whose left half is orthogonal to `w`. -/
def orthogonals (w : Fin n → K) : Submodule K (VectorPair n K) where
  carrier := {x | x.1 ⬝ᵥ w = 0}
  add_mem' {x y} hx hy := (add_dotProduct x.1 y.1 w).trans ((congrArg₂ (· + ·) hx hy).trans (add_zero 0))
  zero_mem' := zero_dotProduct w
  smul_mem' v x hx := (smul_dotProduct v x.1 w).trans ((congrArg (v • ·) hx).trans (smul_zero v))

theorem mem_orthogonals {w : Fin n → K} {x : VectorPair n K} : x ∈ orthogonals w ↔ x.1 ⬝ᵥ w = 0 := Iff.rfl

section Inverses

variable [CharP K 2] (hok : F.ok = true) (hv : F.valid = true) (hrep : F.Represents φ) (hirr : PolyIrreducible F.poly.toNat)
  {a m : List (List Nat)} (ha : ∀ i j, i < n → j < n → cellAt a i j < 2 ^ F.m.toNat)
include hok hv hrep hirr ha

/-- What the elimination ends with is a left inverse, made of elements. -/
theorem fieldMatrix_matInvM_mul (h : matInvM F n a = some m) :
    (∀ i j, i < n → j < n → cellAt m i j < 2 ^ F.m.toNat) ∧ fieldMatrix φ n m * fieldMatrix φ n a = 1 := by
  rw [matInvM_eq] at h
  obtain ⟨rows, hrows, rfl⟩ := Option.map_eq_some_iff.1 h
  obtain ⟨helem, hunit, hmem⟩ :=
    reduced_eliminateColsM hok hv hrep hirr le_rfl (elementPair_startPairs hok hv ha) hrows
  have hcomb := (hmem (combinations (fieldMatrix φ n a))).2 fun r => by
    rw [rowVectors_startPairs hrep, mem_combinations, Matrix.single_one_vecMul]
  constructor
  · intro i j hi hj
    rw [cellAt_map_snd]
    exact (helem i hi j hj).2
  · have hright : fieldMatrix φ n (rows.map Prod.snd) = .of fun r => (rowVectors φ n rows r).2 := by
      ext i j
      exact congrArg φ (cellAt_map_snd rows i j)
    ext i j
    rw [hright, Matrix.one_apply, ← hunit j j.isLt i]
    exact (congrFun (mem_combinations.1 (hcomb i)) j).symm

/-- Where the elimination finds no pivot the matrix takes some column vector to zero. -/
theorem exists_mulVec_eq_zero_of_matInvM (h : matInvM F n a = none) : ∃ w ≠ 0, (fieldMatrix φ n a).mulVec w = 0 := by
  rw [matInvM_eq, Option.map_eq_none_iff] at h
  obtain ⟨c, mid, hc, hmid, hnone⟩ := exists_eliminateM_eq_none h
  obtain ⟨-, hunit, hmem⟩ :=
    reduced_eliminateColsM hok hv hrep hirr hc.le (elementPair_startPairs hok hv ha) hmid
  have hpivot (r : Fin n) (hr : ⟨c, hc⟩ ≤ r) : (rowVectors φ n mid r).1 ⟨c, hc⟩ = 0 :=
    (congrArg φ (eliminateM_eq_none hc.le hnone hr r.isLt)).trans hrep.zero
  have hzero := (hmem (orthogonals (dependency (rowVectors φ n mid) ⟨c, hc⟩))).1
    (HasUnitColumns.dotProduct_dependency (c := ⟨c, hc⟩) hunit hpivot)
  refine ⟨dependency (rowVectors φ n mid) ⟨c, hc⟩, dependency_ne_zero _ _, funext fun r => ?_⟩
  have hrow := hzero r
  rw [rowVectors_startPairs hrep, mem_orthogonals] at hrow
  exact hrow

end Inverses

/-- The inverse the model computes is two-sided (R331). -/
theorem rightInverse_matInvM (hok : F.ok = true) (hv : F.valid = true) (hirr : PolyIrreducible F.poly.toNat)
    {a m : List (List Nat)} (ha : ∀ i j, i < n → j < n → cellAt a i j < 2 ^ F.m.toNat) (h : matInvM F n a = some m) :
    F.RightInverse n a m ∧ ∀ i j, i < n → j < n → F.prodCell n m a i j = if i = j then 1 else 0 := by
  obtain ⟨K, _, _, φ, hrep⟩ := F.exists_represents hok hv hirr
  obtain ⟨helem, hleft⟩ := fieldMatrix_matInvM_mul hok hv hrep hirr ha h
  exact ⟨⟨helem, (prodCell_eq_identity_iff hrep hok hv a m).2 (mul_eq_one_comm.1 hleft)⟩,
    (prodCell_eq_identity_iff hrep hok hv m a).2 hleft⟩

/-- A matrix with a right inverse takes no column vector but zero to zero, so every column has a pivot. -/
theorem matInvM_ne_none (hok : F.ok = true) (hv : F.valid = true) (hirr : PolyIrreducible F.poly.toNat)
    {a b : List (List Nat)} (ha : ∀ i j, i < n → j < n → cellAt a i j < 2 ^ F.m.toNat) (hb : F.RightInverse n a b) :
    matInvM F n a ≠ none := fun hnone => by
  obtain ⟨K, _, _, φ, hrep⟩ := F.exists_represents hok hv hirr
  obtain ⟨w, hw, hzero⟩ := exists_mulVec_eq_zero_of_matInvM hok hv hrep hirr ha hnone
  have hright := (prodCell_eq_identity_iff hrep hok hv a b).1 hb.2
  apply hw
  calc w = (fieldMatrix φ n b * fieldMatrix φ n a).mulVec w := by rw [mul_eq_one_comm.1 hright, Matrix.one_mulVec]
    _ = 0 := by rw [← Matrix.mulVec_mulVec, hzero, Matrix.mulVec_zero]

end SmallFieldMatrices

/-! ### The statement -/

/-- Settles O51: the elimination ends with a two-sided inverse, and finds no pivot only where there is no right inverse. -/
theorem m2mInvByRowReduction : Obligations.M2mInvByRowReduction := by
  unfold Obligations.M2mInvByRowReduction
  intro s dst a hok hirr
  refine Outcome_check rfl fun hv h => Outcome_checkMatM h fun h => Outcome_check h fun _ h => Outcome_check h fun hsq h =>
    Outcome_checkElems h fun helem h => ?_
  have ha (i j : Nat) (hi : i < s.rows a) (hj : j < s.rows a) : cellAt (s.matM a) i j < 2 ^ s.sf.m.toNat :=
    helem _ (cellAt_matM_mem hi (hsq ▸ hj))
  cases hinv : matInvM s.sf (s.rows a) (s.matM a) with
  | none =>
    simp only [hinv] at h
    exact ⟨fun _ => h, fun ⟨b, hb⟩ => absurd hinv (matInvM_ne_none hok hv (hirr hv) ha hb)⟩
  | some m =>
    simp only [hinv] at h
    obtain ⟨hright, hleft⟩ := rightInverse_matInvM hok hv (hirr hv) ha hinv
    exact Outcome_of_holds ⟨m, hright⟩ (Outcome_check h fun _ h => ⟨m, hright, hleft,
      storesAt_putMatM h (fun i j hi hj => SmallField.elem_lt_word hok hv (hright.1 i j hi hj)) (rows_lt s a) (rows_lt s a)⟩)

end Sys2Proof.Machine

/-! ## Commands that end and commands that search on (10_state R38, R39; 43_ext_field R242; 44_basis_conversion R271)

Every command but the four that draw is a `finish`; a turn of those ends the command or leaves one more candidate drawn. -/

namespace Sys2Proof.Machine

set_option Elab.async false

section CommandTurns

variable {i : Instr} {s t : State}

/-- A command that draws no candidate is its checks and its commit. -/
theorem exec_eq_finish (h : i.draws = false) (s : State) : ∃ r, exec i s = finish s r := by
  cases i
  case efSolveq | efRoot | efCob | efConv => cases h
  case nop => exact ⟨.ok s, rfl⟩
  case efFlush => exact ⟨.ok { s with cob := [] }, rfl⟩
  case m2mRmulm | m2mRmulv | m2mLmulv | m2mLmulm => exact ⟨.error .notImplemented, rfl⟩
  all_goals exact ⟨_, rfl⟩

/-- The command has ended: IDLE, DONE, and no search in progress (70 R450). -/
def State.Ended (t : State) : Prop := t.phase = .idle ∧ t.status.done = true ∧ t.candidates = 0

theorem finish_ended {r : Except ErrCode State} (h : finish s r = .next t) : t.Ended := by
  obtain ⟨u, -, rfl⟩ | ⟨e, -, rfl⟩ := finish_cases h
  · exact ⟨rfl, rfl, rfl⟩
  · exact ⟨rfl, rfl, rfl⟩

/-- A search that goes on differs from the state before in the candidates and the answers taken alone. -/
theorem Drawn.eq_withAnswers (h : Drawn s t) : t = { s with
    candidates := t.candidates
    env := { s.env with answers := t.env.answers, answered := t.env.answered } } := by
  obtain ⟨l, n, c, rfl⟩ := h
  rfl

theorem Drawn.status (h : Drawn s t) : t.status = s.status := by
  obtain ⟨l, n, c, rfl⟩ := h
  rfl

/-! ### ITERCNT -/

/-- ITERCNT holds no candidate, those of the earlier turns, or one more (10_state R39); a search that goes on keeps it. -/
def Counted (s t : State) : Prop :=
  Drawn s t ∨ ∃ j, (j = 0 ∨ j = s.candidates ∨ j = s.candidates + 1) ∧ t.itercnt = iterWord j

theorem finish_counted {r : Except ErrCode State} (h : finish s r = .next t) : Counted s t := by
  obtain ⟨u, -, rfl⟩ | ⟨e, -, rfl⟩ := finish_cases h
  · exact .inr ⟨0, .inl rfl, rfl⟩
  · exact .inr ⟨0, .inl rfl, rfl⟩

theorem afterChecks_counted {r : Except ErrCode Unit} {last : Result} (hl : last = .next t → Counted s t)
    (h : afterChecks s r last = .next t) : Counted s t := by
  obtain ⟨-, hlast⟩ | ⟨e, -, rfl⟩ := afterChecks_cases h
  · exact hl hlast
  · exact .inr ⟨0, .inl rfl, rfl⟩

theorem searchTurn_counted {cand : State → Option Nat × State} {found : State → Nat → Except ErrCode State}
    (hd : Drawn s (cand s).2) (h : searchTurn s cand found = .next t) : Counted s t := by
  obtain ⟨-, -, rfl⟩ | ⟨-, ⟨-, rfl⟩ | ⟨r, u, -, -, rfl⟩ | ⟨r, e, -, -, rfl⟩⟩ := searchTurn_cases h
  · exact .inr ⟨s.candidates, .inr (.inl rfl), rfl⟩
  · exact .inl (hd.withCandidates _)
  · exact .inr ⟨s.candidates + 1, .inr (.inr rfl), rfl⟩
  · exact .inr ⟨s.candidates + 1, .inr (.inr rfl), rfl⟩

theorem execEfSolveq_counted {dst a : DReg} {c : Ctx} (h : execEfSolveq dst a c s = .next t) : Counted s t := by
  refine afterChecks_counted (fun hlast => ?_) h
  split at hlast
  · exact finish_counted hlast
  · split at hlast
    · exact finish_counted hlast
    · exact searchTurn_counted (drawn_solveCandidate _ _ s) hlast

theorem convByMatrix_counted {A B : ExtField} {dst : DReg} {x : Nat} (h : convByMatrix A B dst x s = .next t) :
    Counted s t := by
  refine afterChecks_counted (fun hlast => ?_) h
  split at hlast
  · exact finish_counted hlast
  · exact afterChecks_counted (searchTurn_counted (drawn_rootCandidate A B s)) hlast

theorem execEfConv_counted {dst a : DReg} {c : Ctx} (h : execEfConv dst a c s = .next t) : Counted s t := by
  refine afterChecks_counted (fun hlast => ?_) h
  split at hlast
  · exact finish_counted hlast
  · exact convByMatrix_counted hlast

theorem exec_counted (h : exec i s = .next t) : Counted s t := by
  cases hd : i.draws with
  | false =>
    obtain ⟨r, hr⟩ := exec_eq_finish hd s
    exact finish_counted (hr.symm.trans h)
  | true =>
    cases i
    case efSolveq dst a c => exact execEfSolveq_counted h
    case efRoot dst c => exact afterChecks_counted (searchTurn_counted (drawn_rootCandidate _ _ s)) h
    case efCob c => exact afterChecks_counted (searchTurn_counted (drawn_rootCandidate _ _ s)) h
    case efConv dst a c => exact execEfConv_counted h
    all_goals cases hd

/-! ### Errors -/

/-- A command that sets ERR latched an error, after draws alone: its commits leave STATUS as it was (60 R402). -/
theorem exists_latch_of_err (h : exec i s = .next t) (hs : s.status.err = false) (ht : t.status.err = true) :
    ∃ u e j, Drawn s u ∧ t = u.latch e j := by
  have hcontra (he : t.status.err = s.status.err) : False := Bool.false_ne_true (hs.symm.trans (he.symm.trans ht))
  cases exec_ends h with
  | completes j hc => exact (hcontra (congrArg (·.err) hc.status)).elim
  | fails e j hd => exact ⟨_, e, j, hd, rfl⟩
  | goesOn hd _ _ => exact (hcontra (congrArg Status.err hd.status)).elim

end CommandTurns

/-- Settles O8: a command without draws is a `finish`, and a drawing one ends or goes on with one more candidate. -/
theorem everyCommandGoesOn : Obligations.EveryCommandGoesOn := by
  unfold Obligations.EveryCommandGoesOn
  intro i s
  obtain ⟨t, h⟩ := exec_next i s
  refine ⟨t, h, ?_⟩
  cases hd : i.draws with
  | false =>
    obtain ⟨r, hr⟩ := exec_eq_finish hd s
    exact .inl (finish_ended (hr.symm.trans h))
  | true =>
    cases exec_ends h with
    | completes j _ => exact .inl ⟨rfl, rfl, rfl⟩
    | fails e j _ => exact .inl ⟨rfl, rfl, rfl⟩
    | goesOn hdrawn _ hcand => exact .inr ⟨rfl, hcand, hdrawn.eq_withAnswers⟩

/-- Settles O9: the error was latched after draws alone, and ITERCNT counts the candidates of this command. -/
theorem errorIsPrecise : Obligations.ErrorIsPrecise := by
  unfold Obligations.ErrorIsPrecise
  intro i s t h hs ht
  obtain ⟨u, e, k, hu, rfl⟩ := exists_latch_of_err h hs ht
  obtain hdrawn | ⟨j, hj, hcount⟩ := exec_counted h
  · rw [hdrawn.status, hs] at ht
    cases ht
  · obtain ⟨l, n, c, rfl⟩ := hu
    exact ⟨e, j, hj, rfl, rfl, hcount, rfl, rfl, ⟨rfl, rfl, rfl, rfl, rfl, rfl, rfl, rfl, rfl⟩, rfl, rfl, rfl, rfl⟩

end Sys2Proof.Machine

/-! ## Issue, rejection and recovery (70_reset_and_hazards R451; 60_exceptions R403, R404) -/

namespace Sys2Proof.Machine

set_option Elab.async false

section Issue

variable {s : State} {rest : List Input} {v w : Word}

/-- A CMD write is never blocked: its step is the issue (20_memory R96, 70 R451). -/
theorem step_writeCmd (h : s.env.inputs = hostWriteAt s.params 0x004 w :: rest) :
    step s = .next (((s.withInputs rest).issue w).respond .written) := by
  rw [step_of_inputs_host h]
  exact hostAccess_write_free (s := s.withInputs rest) (l := .cmd) rfl rfl (.inr rfl) w

theorem step_writeStatus (h : s.env.inputs = hostWriteAt s.params 0x008 v :: rest) :
    step s = .next (((s.withInputs rest).clearStatus v).respond .written) := by
  rw [step_of_inputs_host h]
  exact hostAccess_writeStatus (s.withInputs rest) v

theorem issue_accepted (hp : s.phase = .idle) (he : s.status.err = false) (w : Word) : s.issue w = s.accept w :=
  if_pos ⟨hp, he⟩

theorem issue_rejected (h : s.phase = .busy ∨ s.status.err = true) (w : Word) :
    s.issue w = { s with status := { s.status with rej := true } } := by
  refine if_neg fun ⟨hp, he⟩ => ?_
  simp [hp, he] at h

/-- Writing 1 to STATUS.ERR clears the error (10_state R33). -/
theorem writeOneToClear_err (c : Status) (hv : v.getLsbD 2 = true) :
    (c.writeOneToClear v).err = false ∧ (c.writeOneToClear v).errcode = 0 := by
  simp [Status.writeOneToClear, hv]

end Issue

/-- Settles O6: the write is accepted, and CMD then holds a word that decodes to the command it encodes. -/
theorem acceptedIssueRunsTheCommand : Obligations.AcceptedIssueRunsTheCommand := by
  unfold Obligations.AcceptedIssueRunsTheCommand
  intro s i rest hwf hp he hi
  have hstep := step_writeCmd hi
  rw [issue_accepted (by exact hp) (by exact he)] at hstep
  refine ⟨_, hstep, rfl, rfl, rfl, rfl, ⟨rfl, rfl, rfl, rfl, rfl, rfl, rfl, rfl, rfl⟩, rfl, rfl, rfl, rfl, rfl,
    fun rest' hrest => ?_⟩
  rw [step_of_inputs_engine hrest]
  exact engineTurn_of_decode_ok rfl (decode_encode hwf)

/-- Settles O7: a rejected issue sets REJ alone; a write of 1 to STATUS.ERR leaves IDLE with ERR = 0, where the next issue is
accepted. -/
theorem rejectedIssueAndRecovery : Obligations.RejectedIssueAndRecovery := by
  unfold Obligations.RejectedIssueAndRecovery
  refine ⟨fun s w rest h hi => ?_, fun s v w rest hp _ hv hi => ?_⟩
  · rw [step_writeCmd hi, issue_rejected (s := s.withInputs rest) h]
    rfl
  · obtain ⟨herr, hcode⟩ := writeOneToClear_err s.status hv
    have hstep := step_writeCmd (rest := rest) (w := w)
      (s := ((s.withInputs (hostWriteAt s.params 0x004 w :: rest)).clearStatus v).respond .written) rfl
    rw [issue_accepted (by exact hp) (by exact herr)] at hstep
    exact ⟨_, _, step_writeStatus hi, herr, hcode, rfl, ⟨rfl, rfl, rfl, rfl, rfl, rfl, rfl, rfl, rfl⟩, hstep, rfl, rfl, rfl, rfl⟩

end Sys2Proof.Machine

/-! ## Reset (70_reset_and_hazards R440, R441; 00_scope R6) -/

namespace Sys2Proof.Machine

set_option Elab.async false

/-- The registers a reset leaves at the values of R441, whatever the parameters and the outside world (log entry 13). -/
def State.AtReset (t : State) : Prop := t = { State.reset with params := t.params, env := t.env }

theorem atReset_reset : State.reset.AtReset := rfl

theorem atReset_resetEvent (s : State) : s.resetEvent.AtReset := rfl

theorem State.AtReset.scalar {t : State} (h : t.AtReset) (k : SReg) : t.S k = 0 := by
  rw [h]
  exact Vector.getElem_replicate _

theorem State.AtReset.desc {t : State} (h : t.AtReset) (d : DReg) :
    t.D d = { base := 0, len := 0, rows := 0, cols := 0, cap := 0 } := by
  rw [h]
  exact Vector.getElem_replicate _

theorem State.AtReset.context {t : State} (h : t.AtReset) (c : Ctx) : t.efc c = ExtField.none := by
  rw [h]
  cases c <;> rfl

/-- The descriptor registers read 0 (R441). -/
theorem State.AtReset.readLoc_desc {t : State} (h : t.AtReset) (d : DReg) :
    t.readLoc (.descBase d) = 0 ∧ t.readLoc (.descLen d) = 0 ∧ t.readLoc (.descRows d) = 0 ∧ t.readLoc (.descCols d) = 0
      ∧ t.readLoc (.descCap d) = 0 := by
  simp only [State.readLoc, h.desc d, and_self]

/-- The context registers read 0 (R441). -/
theorem State.AtReset.readLoc_context {t : State} (h : t.AtReset) (c : Ctx) :
    t.readLoc (.efValid c) = 0 ∧ t.readLoc (.efKind c) = 0 ∧ t.readLoc (.efN c) = 0 ∧ t.readLoc (.efFieldId c) = 0
      ∧ t.readLoc (.efRType c) = 0 ∧ t.readLoc (.efK1 c) = 0 ∧ t.readLoc (.efK2 c) = 0 ∧ t.readLoc (.efK3 c) = 0 := by
  simp only [State.readLoc, h.context c]
  exact ⟨rfl, rfl, rfl, rfl, rfl, rfl, rfl, rfl⟩

/-- Settles O13: every part of the invariant is about a field whose reset value is known. -/
theorem resetSatisfiesTheMachineInvariant : Obligations.ResetSatisfiesTheMachineInvariant := by
  unfold Obligations.ResetSatisfiesTheMachineInvariant
  exact
    { params := by decide
      omForm := rfl
      omRange := fun c hc => by cases hc
      busy := fun hp => by cases hp
      idle := fun _ => rfl
      limit := fun _ => Nat.zero_le _
      noError := fun _ => rfl
      errorCode := fun he => by cases he
      smallField := rfl
      contexts := fun c => by rw [atReset_reset.context c]; rfl
      cache := ⟨rfl, Nat.zero_le _⟩
      cacheRows := fun e he => by cases he }

/-- Settles O15: the reset event and the state after power-up are the same but for the parameters and the outside world. -/
theorem resetEventPutsEveryRegisterAtItsResetValue : Obligations.ResetEventPutsEveryRegisterAtItsResetValue := by
  unfold Obligations.ResetEventPutsEveryRegisterAtItsResetValue
  intro s t h
  obtain ⟨ht, hparams⟩ : t.AtReset ∧ (t ≠ State.reset → t.params = s.params) := by
    obtain ⟨⟨rest, hi⟩, hstep⟩ | rfl := h
    · rw [step_of_inputs_reset hi] at hstep
      cases hstep
      exact ⟨atReset_resetEvent _, fun _ => rfl⟩
    · exact ⟨atReset_reset, fun hne => absurd rfl hne⟩
  have hscalar (k : SReg) : t.readLoc (.scalar k) = 0 := ht.scalar k
  have hdesc (d : DReg) := ht.readLoc_desc d
  have hcontext (c : Ctx) := ht.readLoc_context c
  have hstatus : State.reset.statusWord = 0 := by decide
  have hie : State.reset.ie.word = 0 := by decide
  rw [ht] at hscalar hdesc hcontext ⊢
  exact ⟨rfl, rfl, rfl, rfl, rfl, rfl, rfl, rfl, rfl, rfl, hstatus, hie, rfl, rfl, rfl, rfl, rfl, rfl, rfl, rfl, rfl, rfl, rfl,
    hscalar, hdesc, hcontext, ht ▸ hparams⟩

end Sys2Proof.Machine

/-! ## Coefficient lists (00_scope R10; 20_memory R89)

A list stands for its coefficients, 0 past its end; its normal form is known by them. -/

namespace Sys2Proof.Machine

set_option Elab.async false

section CoefficientLists

variable {F : SmallField} {a b l : List Nat} {c e i k n : Nat}

/-! ### Normal form -/

theorem gpTrim_cons (c : Nat) (l : List Nat) : gpTrim (c :: l) = if gpTrim l = [] ∧ c = 0 then [] else c :: gpTrim l := by
  rw [gpTrim]
  cases gpTrim l with
  | nil => simp
  | cons d ds => simp

/-- The zero coefficients at the top read 0 past the end as well. -/
theorem getD_gpTrim (a : List Nat) (k : Nat) : (gpTrim a).getD k 0 = a.getD k 0 := by
  induction a generalizing k with
  | nil => rfl
  | cons c l ih =>
    rw [gpTrim_cons]
    split
    · rename_i h
      cases k with
      | zero => exact h.2.symm
      | succ k => rw [List.getD_cons_succ, ← ih, h.1, List.getD_nil, List.getD_nil]
    · cases k with
      | zero => rfl
      | succ k => exact ih k

theorem gpTrim_eq_nil_iff : gpTrim a = [] ↔ ∀ k, a.getD k 0 = 0 := by
  refine ⟨fun h k => by rw [← getD_gpTrim, h, List.getD_nil], fun h => ?_⟩
  induction a with
  | nil => rfl
  | cons c l ih => rw [gpTrim_cons, if_pos ⟨ih fun k => h (k + 1), h 0⟩]

/-- The normal form depends on the coefficients alone. -/
theorem gpTrim_congr (h : ∀ k, a.getD k 0 = b.getD k 0) : gpTrim a = gpTrim b := by
  induction a generalizing b with
  | nil => exact (gpTrim_eq_nil_iff.2 fun k => (h k).symm).symm
  | cons c l ih =>
    cases b with
    | nil => exact gpTrim_eq_nil_iff.2 h
    | cons d m =>
      obtain rfl : c = d := h 0
      rw [gpTrim_cons, gpTrim_cons, ih fun k => h (k + 1)]

theorem gpNormal_gpTrim (a : List Nat) : GpNormal (gpTrim a) := gpTrim_congr (getD_gpTrim a)

/-- A normal form is known by its coefficients. -/
theorem GpNormal.ext (ha : GpNormal a) (hb : GpNormal b) (h : ∀ k, a.getD k 0 = b.getD k 0) : a = b :=
  ha.symm.trans ((gpTrim_congr h).trans hb)

/-- A normal form with further coefficients below it is a normal form. -/
theorem gpNormal_append (l : List Nat) (ha : GpNormal a) (hne : a ≠ []) : GpNormal (l ++ a) := by
  induction l with
  | nil => exact ha
  | cons c l ih =>
    have hl : gpTrim (l ++ a) = l ++ a := ih
    rw [GpNormal, List.cons_append, gpTrim_cons, hl, if_neg (by simp [hne])]

/-- The length of a normal form: no coefficient is past it, and the last one is not 0. -/
theorem GpNormal.length_le_iff (ha : GpNormal a) : a.length ≤ n ↔ ∀ k, n ≤ k → a.getD k 0 = 0 := by
  refine ⟨fun h k hk => List.getD_eq_default a 0 (h.trans hk), fun h => ?_⟩
  by_contra hlen
  have hne : a ≠ [] := by
    rintro rfl
    exact hlen (Nat.zero_le n)
  exact gpLead_ne_zero ha hne (h _ (by omega))

theorem length_gpTrim_le (a : List Nat) : (gpTrim a).length ≤ a.length :=
  (gpNormal_gpTrim a).length_le_iff.2 fun k hk => by rw [getD_gpTrim, List.getD_eq_default a 0 hk]

/-! ### Elements -/

theorem forall_mem_lt_iff (hn : 0 < n) : (∀ c ∈ a, c < n) ↔ ∀ k, a.getD k 0 < n := by
  refine ⟨fun h k => ?_, fun h c hc => ?_⟩
  · by_cases hk : k < a.length
    · rw [List.getD_eq_getElem a 0 hk]
      exact h _ (List.getElem_mem hk)
    · rwa [List.getD_eq_default a 0 (by omega)]
  · obtain ⟨k, hk, rfl⟩ := List.mem_iff_getElem.1 hc
    rw [← List.getD_eq_getElem a 0 hk]
    exact h k

theorem gpPoly_iff : GpPoly F a ↔ GpNormal a ∧ ∀ k, a.getD k 0 < 2 ^ F.m.toNat :=
  and_congr_right fun _ => forall_mem_lt_iff (Nat.two_pow_pos _)

theorem GpPoly.coeff_lt (ha : GpPoly F a) (k : Nat) : a.getD k 0 < 2 ^ F.m.toNat := (gpPoly_iff.1 ha).2 k

theorem gpPoly_gpTrim (h : ∀ k, a.getD k 0 < 2 ^ F.m.toNat) : GpPoly F (gpTrim a) :=
  gpPoly_iff.2 ⟨gpNormal_gpTrim a, fun k => (getD_gpTrim a k).trans_lt (h k)⟩

/-! ### Coefficients of the results -/

/-- A list given coefficient by coefficient, 0 past its end. -/
theorem getD_map_range_eq {f : Nat → Nat} (h : ∀ k, n ≤ k → f k = 0) (k : Nat) : ((List.range n).map f).getD k 0 = f k := by
  by_cases hk : k < n
  · exact getD_map_range f 0 hk
  · rw [List.getD_eq_default _ 0 (by rw [List.length_map, List.length_range]; omega), h k (by omega)]

theorem polyMod_zero (b : Nat) : polyMod 0 b = 0 := by
  have hloop (db k : Nat) : (polyDivFrom b db k 0).2 = 0 := by
    induction k with
    | zero => rfl
    | succ k ih => rwa [polyDivFrom, Nat.zero_testBit, if_neg Bool.false_ne_true]
  unfold polyMod polyDivMod
  split
  · rfl
  · exact hloop _ _

theorem SmallField.mul_zero_right (F : SmallField) (x : Nat) : F.mul x 0 = 0 := by
  rw [SmallField.mul, clmul_eq_zero_iff.2 (.inr rfl), polyMod_zero]

theorem SmallField.mul_zero_left (F : SmallField) (x : Nat) : F.mul 0 x = 0 := by
  rw [SmallField.mul, clmul_eq_zero_iff.2 (.inl rfl), polyMod_zero]

theorem getD_gpAdd (a b : List Nat) (k : Nat) : (gpAdd a b).getD k 0 = a.getD k 0 ^^^ b.getD k 0 := by
  rw [gpAdd, getD_gpTrim, getD_map_range_eq fun i hi => ?_]
  rw [List.getD_eq_default a 0 ((le_max_left _ _).trans hi), List.getD_eq_default b 0 ((le_max_right _ _).trans hi),
    Nat.xor_self]

theorem getD_gpScale (F : SmallField) (e : Nat) (a : List Nat) (k : Nat) :
    (gpScale F e a).getD k 0 = F.mul e (a.getD k 0) := by
  rw [gpScale, getD_gpTrim]
  exact (congrArg _ (F.mul_zero_right e).symm).trans (List.getD_map a 0 (F.mul e))

theorem getD_gpShift (n : Nat) (a : List Nat) (k : Nat) :
    (gpShift n a).getD k 0 = if k < n then 0 else a.getD (k - n) 0 := by
  unfold gpShift
  split
  · rename_i h
    simp [h]
  · split
    · rename_i hk
      rw [List.getD_append _ _ _ _ (by rwa [List.length_replicate]), List.getD_replicate _ hk]
    · rename_i hk
      rw [List.getD_append_right _ _ _ _ (by rw [List.length_replicate]; omega), List.length_replicate]

theorem xorSum_congr {f g : Nat → Nat} (h : ∀ i, i < n → f i = g i) : xorSum n f = xorSum n g := by
  induction n with
  | zero => rfl
  | succ n ih => rw [xorSum, xorSum, ih fun i hi => h i (by omega), h n (by omega)]

/-- A sum over GF(2) of zeros. -/
theorem xorSum_eq_zero {g : Nat → Nat} (h : ∀ i, i < n → g i = 0) : xorSum n g = 0 := by
  have hlt : xorSum n g < 2 ^ 0 := xorSum_lt fun i hi => by rw [h i hi]; exact Nat.one_pos
  omega

/-- No product of coefficients lies past the sum of the degrees. -/
theorem gpProductCoeff_eq_zero (h : a.length + b.length - 1 ≤ k) : gpProductCoeff F a b k = 0 := by
  refine xorSum_eq_zero fun i hi => ?_
  by_cases hia : a.length ≤ i
  · rw [List.getD_eq_default a 0 hia, F.mul_zero_left]
  · rw [List.getD_eq_default b 0 (by omega), F.mul_zero_right]

theorem getD_gpMul (F : SmallField) (a b : List Nat) (k : Nat) : (gpMul F a b).getD k 0 = gpProductCoeff F a b k := by
  rw [gpMul, getD_gpTrim]
  exact getD_map_range_eq (f := gpProductCoeff F a b) (fun i hi => gpProductCoeff_eq_zero hi) k

/-- The product depends on the coefficients alone. -/
theorem gpProductCoeff_congr {a' b' : List Nat} (ha : ∀ k, a.getD k 0 = a'.getD k 0) (hb : ∀ k, b.getD k 0 = b'.getD k 0)
    (k : Nat) : gpProductCoeff F a b k = gpProductCoeff F a' b' k := by
  simp only [gpProductCoeff, ha, hb]

theorem getD_gpAddMono (a : List Nat) (n k : Nat) :
    (gpAddMono a n).getD k 0 = a.getD k 0 ^^^ if k = n then 1 else 0 := by
  unfold gpAddMono
  split
  · rename_i hn
    have hlen : (a ++ List.replicate (n - a.length) 0).length = n := by
      rw [List.length_append, List.length_replicate]
      omega
    rcases Nat.lt_trichotomy k n with hk | rfl | hk
    · rw [List.getD_append _ _ _ _ (by omega), if_neg hk.ne, Nat.xor_zero]
      by_cases hka : k < a.length
      · rw [List.getD_append _ _ _ _ hka]
      · rw [List.getD_append_right _ _ _ _ (by omega), List.getD_replicate _ (by omega), List.getD_eq_default a 0 (by omega)]
    · rw [List.getD_append_right _ _ _ _ hlen.le, hlen, Nat.sub_self, if_pos rfl, List.getD_eq_default a 0 hn]
      rfl
    · rw [List.getD_eq_default _ 0 (by rw [List.length_append, hlen]; exact hk), if_neg hk.ne',
        List.getD_eq_default a 0 (by omega)]
      rfl
  · rename_i hn
    rw [getD_gpTrim]
    by_cases hk : k = n
    · rw [if_pos hk, hk, List.getD_eq_getElem _ 0 (by rw [List.length_set]; omega), List.getElem_set_self]
    · simp only [List.getD_eq_getElem?_getD, List.getElem?_set_ne (Ne.symm hk), if_neg hk, Nat.xor_zero]

/-! ### Results in normal form -/

theorem gpPoly_nil (F : SmallField) : GpPoly F [] := ⟨rfl, fun _ hc => absurd hc List.not_mem_nil⟩

theorem gpPoly_gpAdd (ha : ∀ k, a.getD k 0 < 2 ^ F.m.toNat) (hb : ∀ k, b.getD k 0 < 2 ^ F.m.toNat) :
    GpPoly F (gpAdd a b) := by
  refine gpPoly_iff.2 ⟨gpNormal_gpTrim _, fun k => ?_⟩
  rw [getD_gpAdd]
  exact Nat.xor_lt_two_pow (ha k) (hb k)

theorem GpPoly.gpShift (ha : GpPoly F a) (n : Nat) : GpPoly F (gpShift n a) := by
  refine gpPoly_iff.2 ⟨?_, fun k => ?_⟩
  · unfold Machine.gpShift
    split
    · rfl
    · rename_i hne
      exact gpNormal_append _ ha.1 hne
  · rw [getD_gpShift]
    split
    · exact Nat.two_pow_pos _
    · exact ha.coeff_lt _

section Configured

variable (hok : F.ok = true) (hv : F.valid = true)
include hok hv

theorem gpPoly_gpScale (e : Nat) (a : List Nat) : GpPoly F (gpScale F e a) := by
  refine gpPoly_iff.2 ⟨gpNormal_gpTrim _, fun k => ?_⟩
  rw [getD_gpScale]
  exact F.mul_lt hok hv _ _

theorem gpProductCoeff_lt (a b : List Nat) (k : Nat) : gpProductCoeff F a b k < 2 ^ F.m.toNat :=
  xorSum_lt fun _ _ => F.mul_lt hok hv _ _

theorem gpPoly_gpMul (a b : List Nat) : GpPoly F (gpMul F a b) := by
  refine gpPoly_iff.2 ⟨gpNormal_gpTrim _, fun k => ?_⟩
  rw [getD_gpMul]
  exact gpProductCoeff_lt hok hv a b k

theorem GpPoly.gpAddMono (ha : GpPoly F a) (n : Nat) : GpPoly F (gpAddMono a n) := by
  refine gpPoly_iff.2 ⟨?_, fun k => ?_⟩
  · unfold Machine.gpAddMono
    split
    · exact gpNormal_append _ rfl (List.cons_ne_nil 1 [])
    · exact gpNormal_gpTrim _
  · have hone := F.one_lt hok hv
    rw [getD_gpAddMono]
    exact Nat.xor_lt_two_pow (ha.coeff_lt k) (by split <;> omega)

end Configured

end CoefficientLists

end Sys2Proof.Machine

/-! ## Commands that store a Goppa polynomial (20_memory R83, R89, R93, R94; 47_goppa R350) -/

namespace Sys2Proof.Machine

set_option Elab.async false

section GoppaStores

variable {i : Instr} {s t : State} {d e : DReg} {a b : List Nat}

/-! ### Sources -/

theorem getD_goppa (s : State) (d : DReg) (k : Nat) : (s.goppa d).getD k 0 = (s.coeffs d).getD k 0 := getD_gpTrim _ k

theorem gpPoly_goppa (h : s.Elements (s.coeffs d)) : GpPoly s.sf (s.goppa d) :=
  gpPoly_gpTrim ((forall_mem_lt_iff (Nat.two_pow_pos _)).1 h)

/-- A Goppa operand stands for the product of its words as it stands for that of its normal form. -/
theorem gpProductCoeff_goppa (s : State) (d e : DReg) (k : Nat) :
    gpProductCoeff s.sf (s.goppa d) (s.goppa e) k = gpProductCoeff s.sf (s.coeffs d) (s.coeffs e) k :=
  gpProductCoeff_congr (getD_goppa s d) (getD_goppa s e) k

theorem checkGoppa_eq (s : State) (d : DReg) : s.checkGoppa d = check (s.GoppaSource d) .bounds :=
  checkSrc_eq s d (s.len d)

/-- The check of a Goppa source, as one condition. -/
theorem Outcome_checkGoppa {next : Unit → Except ErrCode State} {rest : List (Prop × ErrCode)} {last : Prop}
    (h : exec i s = finish s (s.checkGoppa d >>= next)) (hnext : exec i s = finish s (next ()) → Outcome i s rest last) :
    Outcome i s ((s.GoppaSource d, .bounds) :: rest) last := by
  rw [checkGoppa_eq] at h
  exact Outcome_check h fun _ h => hnext h

section JointChecks

variable {dst x y g : DReg} {next : Unit → Except ErrCode State} {rest : List (Prop × ErrCode)} {last : Prop}

/-- The checks of one source and a destination (R350). -/
theorem Outcome_checkGp1 (h : exec i s = finish s (s.checkGp1 dst x >>= next))
    (hnext : s.sf.valid = true → GpPoly s.sf (s.goppa x) → exec i s = finish s (next ()) → Outcome i s rest last) :
    Outcome i s ((s.sf.valid = true, .fieldInvalid) :: (s.GoppaSource x, .bounds) :: (s.inOm dst, .bounds)
      :: (s.Elements (s.coeffs x), .illegalElem) :: rest) last := by
  simp only [State.checkGp1, bind_assoc] at h
  exact Outcome_check h fun hv h => Outcome_checkGoppa h fun h => Outcome_check h fun _ h => Outcome_checkElems h fun hx h =>
    hnext hv (gpPoly_goppa hx) h

/-- The checks of two sources and a destination (R350). -/
theorem Outcome_checkGp2 (h : exec i s = finish s (s.checkGp2 dst x y >>= next))
    (hnext : s.sf.valid = true → GpPoly s.sf (s.goppa x) → GpPoly s.sf (s.goppa y) → exec i s = finish s (next ()) →
      Outcome i s rest last) :
    Outcome i s ((s.sf.valid = true, .fieldInvalid) :: (s.GoppaSource x, .bounds) :: (s.GoppaSource y, .bounds)
      :: (s.inOm dst, .bounds) :: (s.Elements (s.coeffs x), .illegalElem) :: (s.Elements (s.coeffs y), .illegalElem) :: rest)
      last := by
  simp only [State.checkGp2, bind_assoc] at h
  exact Outcome_check h fun hv h => Outcome_checkGoppa h fun h => Outcome_checkGoppa h fun h => Outcome_check h fun _ h =>
    Outcome_checkElems h fun hx h => Outcome_checkElems h fun hy h => hnext hv (gpPoly_goppa hx) (gpPoly_goppa hy) h

/-- The checks of three sources and a destination (R350). -/
theorem Outcome_checkGp3 (h : exec i s = finish s (s.checkGp3 dst x y g >>= next))
    (hnext : s.sf.valid = true → GpPoly s.sf (s.goppa x) → GpPoly s.sf (s.goppa y) → GpPoly s.sf (s.goppa g) →
      exec i s = finish s (next ()) → Outcome i s rest last) :
    Outcome i s ((s.sf.valid = true, .fieldInvalid) :: (s.GoppaSource x, .bounds) :: (s.GoppaSource y, .bounds)
      :: (s.GoppaSource g, .bounds) :: (s.inOm dst, .bounds) :: (s.Elements (s.coeffs x), .illegalElem)
      :: (s.Elements (s.coeffs y), .illegalElem) :: (s.Elements (s.coeffs g), .illegalElem) :: rest) last := by
  simp only [State.checkGp3, bind_assoc] at h
  exact Outcome_check h fun hv h => Outcome_checkGoppa h fun h => Outcome_checkGoppa h fun h => Outcome_checkGoppa h fun h =>
    Outcome_check h fun _ h => Outcome_checkElems h fun hx h => Outcome_checkElems h fun hy h =>
    Outcome_checkElems h fun hg h => hnext hv (gpPoly_goppa hx) (gpPoly_goppa hy) (gpPoly_goppa hg) h

/-- The checks of one source of a command that writes a scalar (R350). -/
theorem Outcome_checkGpS (h : exec i s = finish s (s.checkGpS x >>= next))
    (hnext : s.sf.valid = true → GpPoly s.sf (s.goppa x) → exec i s = finish s (next ()) → Outcome i s rest last) :
    Outcome i s ((s.sf.valid = true, .fieldInvalid) :: (s.GoppaSource x, .bounds)
      :: (s.Elements (s.coeffs x), .illegalElem) :: rest) last := by
  simp only [State.checkGpS, bind_assoc] at h
  exact Outcome_check h fun hv h => Outcome_checkGoppa h fun h => Outcome_checkElems h fun hx h => hnext hv (gpPoly_goppa hx) h

/-- The modulus checks (R366): the degree of a modulus is at least 1. -/
theorem Outcome_checkModulus {m : List Nat} (h : exec i s = finish s (checkModulus m >>= next))
    (hnext : m ≠ [] → exec i s = finish s (next ()) → Outcome i s rest last) :
    Outcome i s ((m ≠ [], .divZero) :: (2 ≤ m.length, .illegalParam) :: rest) last := by
  simp only [checkModulus, bind_assoc] at h
  have hdeg : 1 ≤ gpDeg m ↔ 2 ≤ m.length := by
    unfold gpDeg
    omega
  exact Outcome_check h fun hne h => Outcome_check_iff h hdeg fun _ h => hnext hne h

end JointChecks

/-! ### Results -/

theorem goppaLen_pos (a : List Nat) : 0 < goppaLen a := Nat.lt_of_lt_of_le Nat.one_pos (le_max_right _ _)

/-- The words of a stored polynomial, the zero polynomial as one word 0, are its coefficients. -/
theorem map_range_goppaLen (a : List Nat) (k : Nat) : ((List.range (goppaLen a)).map fun j => a.getD j 0).getD k 0 = a.getD k 0 :=
  getD_map_range_eq (f := fun j => a.getD j 0) (fun _ hj => List.getD_eq_default a 0 ((le_max_left _ _).trans hj)) k

/-- `dst` holds `a` where its LEN and its words say so. -/
theorem goppaResult_of_words (hn : GpNormal a) (hlen : goppaLen a < 2 ^ 32)
    (hD : t.D d = { s.D d with len := BitVec.ofNat 32 (goppaLen a) })
    (hw : ∀ k, k < goppaLen a → (t.readWord (s.base d + k)).toNat = a.getD k 0) : GoppaResult s t d a := by
  have hl : t.len d = goppaLen a := by
    rw [State.len, hD]
    exact (BitVec.toNat_ofNat ..).trans (Nat.mod_eq_of_lt hlen)
  have hbase : t.base d = s.base d := by rw [State.base, hD]; rfl
  have hcoeffs : t.coeffs d = (List.range (goppaLen a)).map fun k => a.getD k 0 := by
    rw [State.coeffs, State.cells, State.readWords, hl, hbase, List.map_map]
    exact List.map_congr_left fun k hk => hw k (List.mem_range.1 hk)
  refine ⟨?_, hl, hw, hD⟩
  rw [State.goppa, hcoeffs, gpTrim_congr (map_range_goppaLen a)]
  exact hn

/-- What `WriteGoppa` stored reads back, for coefficients that fit a word. -/
theorem goppaResult_putGoppa (hn : GpNormal a) (hlt : ∀ k, a.getD k 0 < 2 ^ 32) (hlen : goppaLen a < 2 ^ 32) :
    GoppaResult s (s.putGoppa d a) d a := by
  refine goppaResult_of_words hn hlen ((putGoppa_D s d d a).trans (if_pos rfl)) fun k hk => ?_
  rw [putGoppa_readWord s d a k hk, BitVec.toNat_ofNat, Nat.mod_eq_of_lt (hlt k)]

/-- A result depends on its descriptor and its words alone. -/
theorem GoppaResult.congr {u : State} (h : GoppaResult s t d a) (hn : GpNormal a) (hlen : goppaLen a < 2 ^ 32)
    (hD : u.D d = t.D d) (hw : ∀ k, k < goppaLen a → u.readWord (s.base d + k) = t.readWord (s.base d + k)) :
    GoppaResult s u d a := by
  obtain ⟨-, -, hwords, hdesc⟩ := h
  exact goppaResult_of_words hn hlen (hD.trans hdesc) fun k hk => (congrArg BitVec.toNat (hw k hk)).trans (hwords k hk)

/-- Completion keeps results. -/
theorem GoppaResult.complete (h : GoppaResult s t d a) (hn : GpNormal a) (hlen : goppaLen a < 2 ^ 32) (j : Nat) :
    GoppaResult s (t.complete j) d a :=
  h.congr hn hlen rfl fun _ _ => rfl

theorem effect_putGoppa (s : State) (d : DReg) (a : List Nat) :
    Effect s ((s.putGoppa d a).complete 0) 0 [] [d] [(s.base d, goppaLen a)] := by
  refine Effect_of rfl ⟨rfl, rfl, rfl, rfl, rfl, rfl⟩ (fun _ _ => rfl) (fun e he => ?_) (fun c hc => ?_) ⟨rfl, rfl, rfl⟩
    (fun _ => rfl)
  · rw [putGoppa_D, if_neg (by simpa using he)]
  · exact putGoppa_readByte s d a c (hc _ (List.mem_singleton_self _))

section Configured

variable (hok : s.sf.ok = true) (hv : s.sf.valid = true)
include hok hv

/-- The coefficients of a polynomial over a configured field fit a word. -/
theorem GpPoly.coeff_lt_word (ha : GpPoly s.sf a) (k : Nat) : a.getD k 0 < 2 ^ 32 :=
  SmallField.elem_lt_word hok hv (ha.coeff_lt k)

theorem storesAt_putGoppa (h : exec i s = finish s (.ok (s.putGoppa d a))) (ha : GpPoly s.sf a)
    (hfit : goppaLen a ≤ s.cap d) : StoresAt i s d (goppaLen a) (fun t => GoppaResult s t d a) := by
  have hlen : goppaLen a < 2 ^ 32 := hfit.trans_lt (s.D d).cap.isLt
  have hres := goppaResult_putGoppa (s := s) (d := d) ha.1 (ha.coeff_lt_word hok hv) hlen
  exact Completes_of h ⟨hres.complete ha.1 hlen 0, effect_putGoppa s d a, rfl, rfl, rfl, rfl⟩

/-- CAPACITY for the length of the result, or the result stored (R94). -/
theorem Outcome_putGoppa {n : Nat} (h : exec i s = finish s (s.checkCap d n >>= fun _ => .ok (s.putGoppa d a)))
    (hn : goppaLen a = n) (ha : GpPoly s.sf a) : Outcome i s [(goppaLen a ≤ s.cap d, .capacity)]
      (StoresAt i s d (goppaLen a) (fun t => GoppaResult s t d a)) := by
  subst hn
  exact Outcome_check h fun hfit h => storesAt_putGoppa hok hv h ha hfit

theorem Outcome_storeGoppa (h : exec i s = finish s (s.storeGoppa d a)) (ha : GpPoly s.sf a) :
    Outcome i s [(goppaLen a ≤ s.cap d, .capacity)] (StoresAt i s d (goppaLen a) (fun t => GoppaResult s t d a)) :=
  Outcome_putGoppa hok hv h rfl ha

end Configured

end GoppaStores

end Sys2Proof.Machine

/-! ## Sums, products and monomials over the small field (47_goppa R351 to R353, R364, R365) -/

namespace Sys2Proof.Machine

set_option Elab.async false

/-- Settles O55: the checks in order, then one store of a list known coefficient by coefficient. -/
theorem gpSumsAndProductsByCoefficient : Obligations.GpSumsAndProductsByCoefficient := by
  unfold Obligations.GpSumsAndProductsByCoefficient
  intro s dst a b e hok
  refine ⟨?_, ?_, ?_⟩
  · refine Outcome_checkGp2 rfl fun hv ha hb h => ?_
    have hsum := gpPoly_gpAdd ha.coeff_lt hb.coeff_lt
    exact ⟨_, hsum.1, fun k => by rw [getD_gpAdd, getD_goppa, getD_goppa], Outcome_storeGoppa hok hv h hsum⟩
  · refine Outcome_checkGp2 rfl fun hv _ _ h => ?_
    have hprod := gpPoly_gpMul hok hv (s.goppa a) (s.goppa b)
    exact ⟨_, hprod.1, fun k => by rw [getD_gpMul, gpProductCoeff_goppa], Outcome_storeGoppa hok hv h hprod⟩
  · refine Outcome_checkGp1 rfl fun hv _ h => Outcome_checkScalarElem h fun _ h => ?_
    have hscaled := gpPoly_gpScale hok hv (s.S e).toNat (s.goppa a)
    exact ⟨_, hscaled.1, fun k => by rw [getD_gpScale, getD_goppa], Outcome_storeGoppa hok hv h hscaled⟩

/-- Settles O60: the length that is checked before is that of the shifted or flipped list. -/
theorem gpMonomialCommandsShiftOrFlip : Obligations.GpMonomialCommandsShiftOrFlip := by
  unfold Obligations.GpMonomialCommandsShiftOrFlip
  intro s dst a k hok
  constructor
  · refine Outcome_checkGp1 rfl fun hv ha h => ?_
    have hshift := ha.gpShift (s.S k).toNat
    exact ⟨_, hshift.1, fun j => by rw [getD_gpShift, getD_goppa],
      Outcome_putGoppa hok hv h (goppaLen_gpShift _ _) hshift⟩
  · refine Outcome_checkGp1 rfl fun hv ha h => ?_
    have hflip := ha.gpAddMono hok hv (s.S k).toNat
    exact ⟨_, hflip.1, fun j => by rw [getD_gpAddMono, getD_goppa],
      Outcome_putGoppa hok hv h (goppaLen_gpAddMono _ _) hflip⟩

end Sys2Proof.Machine

/-! ## The maps over the small field (47_goppa R360, R361; 20_memory R91; 93 I13) -/

namespace Sys2Proof.Machine

set_option Elab.async false

section Maps

variable {i : Instr} {s : State} {F : SmallField} {dst x map : DReg} {o : MapOrient} {t k j : Nat} {cells a : List Nat}

/-- Coefficient `k` of the squaring map, as R360 writes it. -/
theorem getD_gpSquareMap (hk : k < t) : (gpSquareMap F o t cells a).getD k 0
    = xorSum t fun j => F.mul (mapAt o t cells k j) (F.mul (a.getD j 0) (a.getD j 0)) := by
  rw [gpSquareMap, getD_gpTrim, getD_map_range _ _ hk]

/-- Coefficient `k` of the square-root map, as R361 writes it. -/
theorem getD_gpSqrtMap (hk : k < t) : (gpSqrtMap F o t cells a).getD k 0
    = F.sqrt (xorSum t fun j => F.mul (mapAt o t cells k j) (a.getD j 0)) := by
  rw [gpSqrtMap, getD_gpTrim, getD_map_range _ _ hk]

/-- A list of `n` coefficients, each an element, in normal form. -/
theorem gpPoly_trim_map_range {f : Nat → Nat} {n : Nat} (h : ∀ k, k < n → f k < 2 ^ F.m.toNat) :
    GpPoly F (gpTrim ((List.range n).map f)) ∧ (gpTrim ((List.range n).map f)).length ≤ n := by
  refine ⟨⟨gpNormal_gpTrim _, (forall_mem_lt_iff (Nat.two_pow_pos _)).2 fun k => ?_⟩, ?_⟩
  · rw [getD_gpTrim]
    refine (forall_mem_lt_iff (Nat.two_pow_pos _)).1 (fun c hc => ?_) k
    obtain ⟨j, hj, rfl⟩ := List.mem_map.1 hc
    exact h j (List.mem_range.1 hj)
  · exact (length_gpTrim_le _).trans (by rw [List.length_map, List.length_range])

theorem gpPoly_gpSquareMap (hok : F.ok = true) (hv : F.valid = true) :
    GpPoly F (gpSquareMap F o t cells a) ∧ (gpSquareMap F o t cells a).length ≤ t :=
  gpPoly_trim_map_range fun _ _ => xorSum_lt fun _ _ => F.mul_lt hok hv _ _

theorem gpPoly_gpSqrtMap (hok : F.ok = true) (hv : F.valid = true) :
    GpPoly F (gpSqrtMap F o t cells a) ∧ (gpSqrtMap F o t cells a).length ≤ t :=
  gpPoly_trim_map_range fun _ _ => F.sqrt_lt hok hv (xorSum_lt fun _ _ => F.mul_lt hok hv _ _)

/-- Slot `n` of a polynomial array is a word of OM (R91). -/
theorem getD_matCells {n : Nat} (hn : n < s.rows map * s.cols map) :
    (s.matCells map).getD n 0 = (s.readWord (s.base map + n)).toNat := by
  rw [State.matCells, State.cells, State.readWords, List.map_map, getD_map_range _ _ hn]
  rfl

/-- Slot `(k, j)` of a square map in the orientation the parameter gives (93 I13). -/
theorem mapAt_matCells {M : Nat → Nat → Nat} (hsq : s.rows map = s.cols map)
    (hrow : s.params.mapOrient = .rowIsOutput → ∀ i j, M i j = (s.readWord (s.base map + i * s.rows map + j)).toNat)
    (hcol : s.params.mapOrient = .rowIsInput → ∀ i j, M i j = (s.readWord (s.base map + j * s.rows map + i)).toNat)
    (hk : k < s.rows map) (hj : j < s.rows map) : mapAt s.params.mapOrient (s.rows map) (s.matCells map) k j = M k j := by
  have hslot {p q : Nat} (hp : p < s.rows map) (hq : q < s.rows map) : p * s.rows map + q < s.rows map * s.cols map := by
    calc p * s.rows map + q < (p + 1) * s.rows map := by rw [Nat.succ_mul]; omega
      _ ≤ s.rows map * s.cols map := hsq ▸ Nat.mul_le_mul_right _ hp
  cases ho : s.params.mapOrient with
  | rowIsOutput => rw [hrow ho, mapAt, getD_matCells (hslot hk hj), Nat.add_assoc]
  | rowIsInput => rw [hcol ho, mapAt, getD_matCells (hslot hj hk), Nat.add_assoc]

/-- The checks of the map commands, `deg(A) < t` the last (R360). -/
theorem Outcome_checkGpMap {next : Unit → Except ErrCode State} {rest : List (Prop × ErrCode)} {last : Prop}
    (h : exec i s = finish s (s.checkGpMap dst x map >>= next))
    (hnext : s.sf.valid = true → s.rows map = s.cols map → exec i s = finish s (next ()) → Outcome i s rest last) :
    Outcome i s ((s.sf.valid = true, .fieldInvalid) :: (s.GoppaSource x, .bounds) :: (s.MatMSource map, .bounds)
      :: (s.inOm dst, .bounds) :: (1 ≤ s.rows map ∧ s.rows map = s.cols map, .dim) :: (s.Elements (s.coeffs x), .illegalElem)
      :: (s.Elements (s.matCells map), .illegalElem) :: ((s.goppa x).length ≤ s.rows map, .dim) :: rest) last := by
  simp only [State.checkGpMap, bind_assoc] at h
  have hmap : s.checkMap map = check (s.MatMSource map) .bounds := checkSrc_eq s map _
  have hdeg : gpDeg (s.goppa x) < (s.rows map : Int) ↔ (s.goppa x).length ≤ s.rows map := by
    unfold gpDeg
    omega
  rw [hmap] at h
  exact Outcome_check h fun hv h => Outcome_checkGoppa h fun h => Outcome_check h fun _ h => Outcome_check h fun _ h =>
    Outcome_check h fun hsq h => Outcome_checkElems h fun _ h => Outcome_checkElems h fun _ h =>
    Outcome_check_iff h hdeg fun _ h => hnext hv hsq.2 h

end Maps

/-- Settles O58: one list of `t` coefficients by the formula of either map, in normal form. -/
theorem gpMapsByTheirFormula : Obligations.GpMapsByTheirFormula := by
  unfold Obligations.GpMapsByTheirFormula
  intro s dst a map M hok hrow hcol i coeff hi
  have hmap (hsq : s.rows map = s.cols map) {k : Nat} (hk : k < s.rows map) (f : Nat → Nat) :
      (xorSum (s.rows map) fun j => s.sf.mul (mapAt s.params.mapOrient (s.rows map) (s.matCells map) k j) (f j))
        = xorSum (s.rows map) fun j => s.sf.mul (M k j) (f j) :=
    xorSum_congr fun j hj => by rw [mapAt_matCells hsq hrow hcol hk hj]
  obtain ⟨rfl, rfl⟩ | ⟨rfl, rfl⟩ := hi
  · refine Outcome_checkGpMap rfl fun hv hsq h => ?_
    obtain ⟨hpoly, hlen⟩ := gpPoly_gpSquareMap hok hv
    refine ⟨_, hpoly.1, hlen, fun k hk => ?_, Outcome_storeGoppa hok hv h hpoly⟩
    rw [getD_gpSquareMap hk, hmap hsq hk]
    simp only [getD_goppa]
  · refine Outcome_checkGpMap rfl fun hv hsq h => ?_
    obtain ⟨hpoly, hlen⟩ := gpPoly_gpSqrtMap hok hv
    refine ⟨_, hpoly.1, hlen, fun k hk => ?_, Outcome_storeGoppa hok hv h hpoly⟩
    rw [getD_gpSqrtMap hk, hmap hsq hk]
    simp only [getD_goppa]
    rfl

end Sys2Proof.Machine

/-! ## Coefficient lists as polynomials over a field (47_goppa R350 to R355)

A configured small field is a field `K`, and a coefficient list over it is a polynomial of `K[X]`: each operation on lists is
tied to its counterpart once, and the facts about divisors, inverses and irreducibility come from the ring. -/

namespace Sys2Proof.Machine

set_option Elab.async false

open Polynomial

/-- A configured small field is the field `K`: every value of `K` is that of one element (42 R200). -/
structure SmallField.IsField (F : SmallField) {K : Type} [Field K] (φ : Nat → K) : Prop extends F.Represents φ where
  ok : F.ok = true
  valid : F.valid = true
  irreducible : PolyIrreducible F.poly.toNat
  surjective : ∀ y, ∃ x < 2 ^ F.m.toNat, φ x = y

/-- The classes modulo the field's polynomial: every class is that of its remainder. -/
theorem SmallField.exists_isField {F : SmallField} (hok : F.ok = true) (hv : F.valid = true)
    (hirr : PolyIrreducible F.poly.toNat) : ∃ (K : Type) (_ : Field K) (_ : CharP K 2) (φ : Nat → K), F.IsField φ := by
  have := Fact.mk (polyIrreducible_iff.1 hirr)
  have hlen := (F.bounds_of_ok hok hv).2
  refine ⟨AdjoinRoot (gf2Poly F.poly.toNat), inferInstance,
    charP_of_injective_algebraMap (algebraMap (ZMod 2) (AdjoinRoot (gf2Poly F.poly.toNat))).injective 2,
    residue F.poly.toNat, ⟨residue_xor _, F.residue_mul, residue_one _, fun _ _ ha hb => eq_of_residue_eq hlen ha hb⟩,
    hok, hv, hirr, fun y => ?_⟩
  obtain ⟨P, rfl⟩ := AdjoinRoot.mk_surjective y
  obtain ⟨a, rfl⟩ := gf2Poly_surjective P
  exact ⟨polyMod a F.poly.toNat, polyMod_lt hlen a, residue_polyMod _ a⟩

/-- The polynomial whose coefficients a list holds (00_scope R10). -/
noncomputable def fieldPoly {K : Type} [Field K] (φ : Nat → K) (a : List Nat) : K[X] :=
  ∑ i ∈ Finset.range a.length, monomial i (φ (a.getD i 0))

section FieldPolynomials

variable {F : SmallField} {K : Type} [Field K] {φ : Nat → K} {a b d : List Nat} {n : Nat}

theorem fieldPoly_nil (φ : Nat → K) : fieldPoly φ [] = 0 := rfl

/-- One coefficient more at the top. -/
theorem fieldPoly_append_singleton (φ : Nat → K) (a : List Nat) (c : Nat) :
    fieldPoly φ (a ++ [c]) = fieldPoly φ a + C (φ c) * X ^ a.length := by
  rw [fieldPoly, List.length_append, List.length_singleton, Finset.sum_range_succ, C_mul_X_pow_eq_monomial]
  congr 1
  · refine Finset.sum_congr rfl fun i hi => ?_
    rw [List.getD_append _ _ _ _ (Finset.mem_range.1 hi)]
  · rw [List.getD_append_right _ _ _ _ le_rfl, Nat.sub_self, List.getD_cons_zero]

variable (h : F.IsField φ)
include h

theorem SmallField.IsField.fieldPoly_one : fieldPoly φ [1] = 1 := by
  simp [fieldPoly, h.one]

/-- A coefficient divided by a leading coefficient with inverse `v`, times that leading coefficient. -/
theorem SmallField.IsField.mul_mul_cancel {v x y : Nat} (hv : F.mul v y = 1) (hx : x < 2 ^ F.m.toNat) :
    F.mul (F.mul v x) y = x := by
  refine h.inj _ _ (F.mul_lt h.ok h.valid _ _) hx ?_
  have hvy : φ v * φ y = 1 := by rw [← h.mul, hv, h.one]
  rw [h.mul, h.mul]
  linear_combination φ x * hvy

theorem SmallField.IsField.inv_gpLead_mul (hb : GpPoly F b) (hne : b ≠ []) : F.mul (F.inv (gpLead b)) (gpLead b) = 1 := by
  have hlt : gpLead b < 2 ^ F.m.toNat := hb.coeff_lt _
  have hinv := F.mul_inv h.ok h.valid h.irreducible hlt (gpLead_ne_zero hb.1 hne)
  refine h.inj _ _ (F.mul_lt h.ok h.valid _ _) (F.one_lt h.ok h.valid) ?_
  rw [h.mul, mul_comm, ← h.mul, hinv]

variable [CharP K 2]

/-! ### Operations -/

theorem SmallField.IsField.coeff_fieldPoly (a : List Nat) (k : Nat) : (fieldPoly φ a).coeff k = φ (a.getD k 0) := by
  simp only [fieldPoly, finsetSum_coeff, coeff_monomial, Finset.sum_ite_eq', Finset.mem_range]
  split
  · rfl
  · rw [List.getD_eq_default a 0 (by omega), h.zero]

theorem SmallField.IsField.fieldPoly_X : fieldPoly φ [0, 1] = X := by
  simp [fieldPoly, Finset.sum_range_succ, h.one, h.zero, monomial_one_one_eq_X]

/-- The polynomial of a list depends on its coefficients alone. -/
theorem SmallField.IsField.fieldPoly_gpTrim (a : List Nat) : fieldPoly φ (gpTrim a) = fieldPoly φ a := by
  ext k
  rw [h.coeff_fieldPoly, h.coeff_fieldPoly, getD_gpTrim]

theorem SmallField.IsField.fieldPoly_gpAdd (a b : List Nat) : fieldPoly φ (gpAdd a b) = fieldPoly φ a + fieldPoly φ b := by
  ext k
  rw [coeff_add, h.coeff_fieldPoly, h.coeff_fieldPoly, h.coeff_fieldPoly, getD_gpAdd, h.xor]

theorem SmallField.IsField.fieldPoly_gpScale (e : Nat) (a : List Nat) :
    fieldPoly φ (gpScale F e a) = C (φ e) * fieldPoly φ a := by
  ext k
  rw [coeff_C_mul, h.coeff_fieldPoly, h.coeff_fieldPoly, getD_gpScale, h.mul]

theorem SmallField.IsField.fieldPoly_gpShift (n : Nat) (a : List Nat) :
    fieldPoly φ (gpShift n a) = fieldPoly φ a * X ^ n := by
  ext k
  rw [coeff_mul_X_pow', h.coeff_fieldPoly, h.coeff_fieldPoly, getD_gpShift]
  by_cases hk : k < n
  · rw [if_pos hk, if_neg (by omega), h.zero]
  · rw [if_neg hk, if_pos (by omega)]

/-- The sum of products of R353 is the coefficient of the product. -/
theorem SmallField.IsField.map_gpProductCoeff (a b : List Nat) (k : Nat) :
    φ (gpProductCoeff F a b k) = (fieldPoly φ a * fieldPoly φ b).coeff k := by
  rw [gpProductCoeff, map_xorSum h.xor, coeff_mul, Finset.Nat.sum_antidiagonal_eq_sum_range_succ_mk]
  simp only [h.mul, h.coeff_fieldPoly]

theorem SmallField.IsField.fieldPoly_gpMul (a b : List Nat) : fieldPoly φ (gpMul F a b) = fieldPoly φ a * fieldPoly φ b := by
  ext k
  rw [h.coeff_fieldPoly, getD_gpMul, h.map_gpProductCoeff]

/-! ### Lists and polynomials, one to one -/

theorem SmallField.IsField.fieldPoly_injective (ha : GpPoly F a) (hb : GpPoly F b) (hab : fieldPoly φ a = fieldPoly φ b) :
    a = b := by
  refine ha.1.ext hb.1 fun k => h.inj _ _ (ha.coeff_lt k) (hb.coeff_lt k) ?_
  rw [← h.coeff_fieldPoly, hab, h.coeff_fieldPoly]

/-- Every polynomial over the field is that of a list in normal form. -/
theorem SmallField.IsField.exists_gpPoly (P : K[X]) : ∃ a, GpPoly F a ∧ fieldPoly φ a = P := by
  choose f hlt hf using h.surjective
  obtain ⟨hpoly, -⟩ := gpPoly_trim_map_range (F := F) (f := fun k => f (P.coeff k)) (n := P.natDegree + 1) fun k _ => hlt _
  refine ⟨_, hpoly, ?_⟩
  ext k
  rw [h.coeff_fieldPoly, getD_gpTrim]
  by_cases hk : k < P.natDegree + 1
  · rw [getD_map_range _ _ hk, hf]
  · rw [List.getD_eq_default _ 0 (by rw [List.length_map, List.length_range]; omega), h.zero,
      coeff_eq_zero_of_natDegree_lt (by omega)]

theorem SmallField.IsField.map_eq_zero_iff {x : Nat} (hx : x < 2 ^ F.m.toNat) : φ x = 0 ↔ x = 0 :=
  ⟨fun h0 => h.inj _ _ hx (Nat.two_pow_pos _) (h0.trans h.zero.symm), fun h0 => h0 ▸ h.zero⟩

theorem SmallField.IsField.degree_fieldPoly_lt_iff (ha : GpPoly F a) : (fieldPoly φ a).degree < n ↔ a.length ≤ n := by
  rw [degree_lt_iff_coeff_zero, ha.1.length_le_iff]
  refine forall₂_congr fun k _ => ?_
  rw [h.coeff_fieldPoly, h.map_eq_zero_iff (ha.coeff_lt k)]

theorem SmallField.IsField.fieldPoly_eq_zero_iff (ha : GpPoly F a) : fieldPoly φ a = 0 ↔ a = [] :=
  ⟨fun h0 => h.fieldPoly_injective ha (gpPoly_nil F) h0, fun h0 => h0 ▸ fieldPoly_nil φ⟩

theorem SmallField.IsField.natDegree_fieldPoly (ha : GpPoly F a) : (fieldPoly φ a).natDegree = a.length - 1 := by
  by_cases hne : a = []
  · subst hne
    exact natDegree_zero
  · have hpos := List.length_pos_of_ne_nil hne
    have h0 := mt (h.fieldPoly_eq_zero_iff ha).1 hne
    have hlt := (natDegree_lt_iff_degree_lt h0).2 ((h.degree_fieldPoly_lt_iff ha).2 le_rfl)
    have hle := (h.degree_fieldPoly_lt_iff (n := (fieldPoly φ a).natDegree + 1) ha).1
      ((natDegree_lt_iff_degree_lt h0).1 (Nat.lt_succ_self _))
    omega

theorem SmallField.IsField.leadingCoeff_fieldPoly (ha : GpPoly F a) : (fieldPoly φ a).leadingCoeff = φ (gpLead a) := by
  rw [leadingCoeff, h.natDegree_fieldPoly ha, h.coeff_fieldPoly]
  rfl

/-- The units are the constants other than 0. -/
theorem SmallField.IsField.isUnit_fieldPoly_iff (ha : GpPoly F a) : IsUnit (fieldPoly φ a) ↔ a.length = 1 := by
  by_cases hne : a = []
  · subst hne
    exact iff_of_false not_isUnit_zero (Nat.succ_ne_zero 0).symm
  · have hpos := List.length_pos_of_ne_nil hne
    have h0 := mt (h.fieldPoly_eq_zero_iff ha).1 hne
    rw [isUnit_iff_degree_eq_zero, degree_eq_natDegree h0, h.natDegree_fieldPoly ha, Nat.cast_eq_zero]
    omega

/-! ### Divisors -/

/-- A product of lists is the product in the ring. -/
theorem SmallField.IsField.coeffs_eq_product_iff (ha : ∀ k, a.getD k 0 < 2 ^ F.m.toNat) (b d : List Nat) :
    (∀ k, a.getD k 0 = gpProductCoeff F b d k) ↔ fieldPoly φ a = fieldPoly φ b * fieldPoly φ d := by
  constructor
  · intro hk
    ext k
    rw [h.coeff_fieldPoly, hk, h.map_gpProductCoeff]
  · intro heq k
    refine h.inj _ _ (ha k) (gpProductCoeff_lt h.ok h.valid b d k) ?_
    rw [h.map_gpProductCoeff, ← heq, h.coeff_fieldPoly]

theorem SmallField.IsField.gpDvd_iff (ha : GpPoly F a) : GpDvd F d a ↔ fieldPoly φ d ∣ fieldPoly φ a := by
  constructor
  · rintro ⟨q, -, hq⟩
    rw [(h.coeffs_eq_product_iff ha.coeff_lt q d).1 hq]
    exact dvd_mul_left _ _
  · rintro ⟨Q, hQ⟩
    obtain ⟨q, hq, rfl⟩ := h.exists_gpPoly Q
    exact ⟨q, hq, (h.coeffs_eq_product_iff ha.coeff_lt q d).2 (hQ.trans (mul_comm _ _))⟩

/-- Lists whose common divisors are constants are coprime (47 R358). -/
theorem SmallField.IsField.gpCoprime_iff (ha : GpPoly F a) (hb : GpPoly F b) :
    GpCoprime F a b ↔ IsCoprime (fieldPoly φ a) (fieldPoly φ b) := by
  rw [← isRelPrime_iff_isCoprime]
  constructor
  · intro hcop D hDa hDb
    obtain ⟨d, hd, rfl⟩ := h.exists_gpPoly D
    exact (h.isUnit_fieldPoly_iff hd).2 (hcop d hd ((h.gpDvd_iff ha).2 hDa) ((h.gpDvd_iff hb).2 hDb))
  · intro hcop d hd hda hdb
    exact (h.isUnit_fieldPoly_iff hd).1 (hcop ((h.gpDvd_iff ha).1 hda) ((h.gpDvd_iff hb).1 hdb))

end FieldPolynomials

/-- The dividend of the next round of a division, its coefficient at `x^(k+db)` cancelled. -/
def gpReduce (F : SmallField) (b : List Nat) (v k : Nat) (r : List Nat) : List Nat :=
  gpAdd r (gpShift k (gpScale F (F.mul v (r.getD (k + (b.length - 1)) 0)) b))

section Division

variable {F : SmallField} {a b r : List Nat} {v k : Nat}

theorem gpDivFrom_succ (F : SmallField) (b : List Nat) (v k : Nat) (r : List Nat) : gpDivFrom F b v (k + 1) r
    = ((gpDivFrom F b v k (gpReduce F b v k r)).1 ++ [F.mul v (r.getD (k + (b.length - 1)) 0)],
        (gpDivFrom F b v k (gpReduce F b v k r)).2) := rfl

theorem length_gpDivFrom (F : SmallField) (b : List Nat) (v k : Nat) (r : List Nat) : (gpDivFrom F b v k r).1.length = k := by
  induction k generalizing r with
  | zero => rfl
  | succ k ih => rw [gpDivFrom_succ, List.length_append, ih, List.length_singleton]

variable {K : Type} [Field K] {φ : Nat → K} (h : F.IsField φ)
include h

theorem SmallField.IsField.gpReduce_lt (hr : ∀ j, r.getD j 0 < 2 ^ F.m.toNat) (b : List Nat) (v k j : Nat) :
    (gpReduce F b v k r).getD j 0 < 2 ^ F.m.toNat :=
  (gpPoly_gpAdd hr ((gpPoly_gpScale h.ok h.valid _ b).gpShift k).coeff_lt).coeff_lt j

/-- A round lowers the bound on the degree by one: the quotient coefficient cancels the top one (47 R354). -/
theorem SmallField.IsField.getD_gpReduce_eq_zero (hv : F.mul v (gpLead b) = 1) (hlt : ∀ j, r.getD j 0 < 2 ^ F.m.toNat)
    (hr : ∀ j, k + 1 + (b.length - 1) ≤ j → r.getD j 0 = 0) {j : Nat} (hj : k + (b.length - 1) ≤ j) :
    (gpReduce F b v k r).getD j 0 = 0 := by
  rw [gpReduce, getD_gpAdd, getD_gpShift, if_neg (by omega), getD_gpScale]
  rcases Nat.eq_or_lt_of_le hj with rfl | hj
  · rw [Nat.add_sub_cancel_left]
    exact (congrArg (_ ^^^ ·) (h.mul_mul_cancel hv (hlt _))).trans (Nat.xor_self _)
  · rw [hr j (by omega), List.getD_eq_default b 0 (by omega), F.mul_zero_right]
    rfl

/-- Quotient and remainder have elements as coefficients. -/
theorem SmallField.IsField.gpDivFrom_lt (b : List Nat) (v k : Nat) (hr : ∀ j, r.getD j 0 < 2 ^ F.m.toNat) :
    (∀ c ∈ (gpDivFrom F b v k r).1, c < 2 ^ F.m.toNat) ∧ ∀ j, (gpDivFrom F b v k r).2.getD j 0 < 2 ^ F.m.toNat := by
  induction k generalizing r with
  | zero => exact ⟨fun c hc => absurd hc List.not_mem_nil, hr⟩
  | succ k ih =>
    obtain ⟨hquot, hrem⟩ := ih (h.gpReduce_lt hr b v k)
    refine ⟨fun c hc => ?_, hrem⟩
    rcases List.mem_append.1 hc with hc | hc
    · exact hquot c hc
    · rw [List.mem_singleton.1 hc]
      exact F.mul_lt h.ok h.valid _ _

/-- All rounds leave a remainder of lower degree than the divisor. -/
theorem SmallField.IsField.getD_gpDivFrom_eq_zero (hv : F.mul v (gpLead b) = 1) (hlt : ∀ j, r.getD j 0 < 2 ^ F.m.toNat)
    (hr : ∀ j, k + (b.length - 1) ≤ j → r.getD j 0 = 0) {j : Nat} (hj : b.length - 1 ≤ j) :
    (gpDivFrom F b v k r).2.getD j 0 = 0 := by
  induction k generalizing r with
  | zero => exact hr j (by omega)
  | succ k ih => exact ih (h.gpReduce_lt hlt b v k) fun i hi => h.getD_gpReduce_eq_zero hv hlt hr hi

theorem SmallField.IsField.gpPoly_gpDiv (ha : GpPoly F a) (b : List Nat) : GpPoly F (gpDiv F a b) :=
  gpPoly_gpTrim ((forall_mem_lt_iff (Nat.two_pow_pos _)).1 (h.gpDivFrom_lt b _ _ ha.coeff_lt).1)

theorem SmallField.IsField.gpPoly_gpMod (ha : GpPoly F a) (b : List Nat) : GpPoly F (gpMod F a b) :=
  gpPoly_gpTrim (h.gpDivFrom_lt b _ _ ha.coeff_lt).2

/-- The remainder has a lower degree than the divisor (47 R354). -/
theorem SmallField.IsField.length_gpMod_lt (ha : GpPoly F a) (hb : GpPoly F b) (hne : b ≠ []) :
    (gpMod F a b).length < b.length := by
  have hpos := List.length_pos_of_ne_nil hne
  have hle : (gpMod F a b).length ≤ b.length - 1 := (gpNormal_gpTrim _).length_le_iff.2 fun k hk => by
    rw [getD_gpTrim]
    exact h.getD_gpDivFrom_eq_zero (h.inv_gpLead_mul hb hne) ha.coeff_lt
      (fun j hj => List.getD_eq_default a 0 (by omega)) hk
  omega

variable [CharP K 2]

/-- A round subtracts a multiple of the divisor. -/
theorem SmallField.IsField.fieldPoly_gpReduce (b : List Nat) (v k : Nat) (r : List Nat) : fieldPoly φ (gpReduce F b v k r)
    = fieldPoly φ r + C (φ (F.mul v (r.getD (k + (b.length - 1)) 0))) * X ^ k * fieldPoly φ b := by
  rw [gpReduce, h.fieldPoly_gpAdd, h.fieldPoly_gpShift, h.fieldPoly_gpScale]
  ring

theorem SmallField.IsField.fieldPoly_gpDivFrom (b : List Nat) (v k : Nat) (r : List Nat) :
    fieldPoly φ r = fieldPoly φ (gpDivFrom F b v k r).1 * fieldPoly φ b + fieldPoly φ (gpDivFrom F b v k r).2 := by
  induction k generalizing r with
  | zero =>
    show fieldPoly φ r = fieldPoly φ [] * fieldPoly φ b + fieldPoly φ r
    rw [fieldPoly_nil φ, zero_mul, zero_add]
  | succ k ih =>
    have hround := ih (gpReduce F b v k r)
    rw [h.fieldPoly_gpReduce] at hround
    rw [gpDivFrom_succ, fieldPoly_append_singleton φ, length_gpDivFrom]
    linear_combination hround - CharTwo.add_self_eq_zero
      (C (φ (F.mul v (r.getD (k + (b.length - 1)) 0))) * X ^ k * fieldPoly φ b)

/-- The division identity `a = q · b + r` (47 R354). -/
theorem SmallField.IsField.gpDiv_mul_add_gpMod (a b : List Nat) :
    fieldPoly φ a = fieldPoly φ (gpDiv F a b) * fieldPoly φ b + fieldPoly φ (gpMod F a b) := by
  rw [gpDiv, gpMod, gpDivMod, h.fieldPoly_gpTrim, h.fieldPoly_gpTrim]
  exact h.fieldPoly_gpDivFrom b _ _ a

/-- The division identity coefficient by coefficient. -/
theorem SmallField.IsField.coeff_gpDiv_gpMod (ha : GpPoly F a) (b : List Nat) (k : Nat) :
    a.getD k 0 = gpProductCoeff F (gpDiv F a b) b k ^^^ (gpMod F a b).getD k 0 := by
  refine h.inj _ _ (ha.coeff_lt k)
    (Nat.xor_lt_two_pow (gpProductCoeff_lt h.ok h.valid _ _ k) ((h.gpPoly_gpMod ha b).coeff_lt k)) ?_
  rw [h.xor, h.map_gpProductCoeff, ← h.coeff_fieldPoly, ← h.coeff_fieldPoly, ← coeff_add, ← h.gpDiv_mul_add_gpMod]

end Division

end Sys2Proof.Machine

/-! ## Quotient and remainder over the small field (47_goppa R354, R355; 20_memory R93) -/

namespace Sys2Proof.Machine

set_option Elab.async false

section TwoResults

variable {i : Instr} {s : State} {d e : DReg} {a b : List Nat}

theorem effect_putGoppa_pair (s : State) (hne : d ≠ e) (a b : List Nat) :
    Effect s (((s.putGoppa d a).putGoppa e b).complete 0) 0 [] [d, e]
      [(s.base d, goppaLen a), (s.base e, goppaLen b)] := by
  have hbase : (s.putGoppa d a).base e = s.base e := by rw [State.base, putGoppa_D, if_neg hne.symm]; rfl
  refine Effect_of (by simp) (by simp) (fun _ _ => by simp [State.S]) (fun c hc => ?_) (fun x hx => ?_) (by simp)
    (fun _ => by simp)
  · simp only [List.mem_cons, List.not_mem_nil, or_false, not_or] at hc
    obtain ⟨hcd, hce⟩ := hc
    rw [putGoppa_D, if_neg hce, putGoppa_D, if_neg hcd]
  · rw [putGoppa_readByte, putGoppa_readByte]
    · exact hx (s.base d, goppaLen a) List.mem_cons_self
    · rw [hbase]
      exact hx (s.base e, goppaLen b) (List.mem_cons_of_mem _ (List.mem_singleton_self _))

/-- Two results stored at different descriptors and in words apart both read back (20_memory R93). -/
theorem completes_putGoppa_pair (hok : s.sf.ok = true) (hv : s.sf.valid = true)
    (h : exec i s = finish s (.ok ((s.putGoppa d a).putGoppa e b))) (ha : GpPoly s.sf a) (hb : GpPoly s.sf b)
    (hfa : goppaLen a ≤ s.cap d) (hfb : goppaLen b ≤ s.cap e) (hap : s.Apart d e (goppaLen a) (goppaLen b)) :
    Completes i s (fun t => GoppaResult s t d a ∧ GoppaResult s t e b
      ∧ Effect s t 0 [] [d, e] [(s.base d, goppaLen a), (s.base e, goppaLen b)] ∧ FieldsKept s t) := by
  obtain ⟨hne, hmeet⟩ := hap
  have hlena : goppaLen a < 2 ^ 32 := hfa.trans_lt (s.D d).cap.isLt
  have hlenb : goppaLen b < 2 ^ 32 := hfb.trans_lt (s.D e).cap.isLt
  have hD : (s.putGoppa d a).D e = s.D e := by rw [putGoppa_D, if_neg hne.symm]
  have hbase : (s.putGoppa d a).base e = s.base e := congrArg (fun D : Desc => D.base.toNat) hD
  have hdisj := disjoint_of_not_rangesMeet hmeet (goppaLen_pos a).ne' (goppaLen_pos b).ne'
  have hfirst : GoppaResult s ((s.putGoppa d a).putGoppa e b) d a := by
    refine (goppaResult_putGoppa ha.1 (ha.coeff_lt_word hok hv) hlena).congr ha.1 hlena
      ((putGoppa_D _ _ _ _).trans (if_neg hne)) fun k hk => ?_
    refine readWord_writeWords_out (s.putGoppa d a) ((s.putGoppa d a).base e) (s.base d + k)
      ((goppaStored b).map (BitVec.ofNat 32)) ?_
    rw [hbase, List.length_map, goppaStored_length]
    omega
  have hsecond : GoppaResult s ((s.putGoppa d a).putGoppa e b) e b := by
    have := goppaResult_putGoppa (s := s.putGoppa d a) (d := e) hb.1 (hb.coeff_lt_word hok hv) hlenb
    unfold GoppaResult at this
    rwa [hbase, hD] at this
  exact Completes_of h ⟨hfirst.complete ha.1 hlena 0, hsecond.complete hb.1 hlenb 0, effect_putGoppa_pair s hne a b, by simp [FieldsKept]⟩

end TwoResults

/-- Settles O56, by the division identity over the field and the degree bound of the model's division. -/
theorem gpDivAndGpModDivideExactly : Obligations.GpDivAndGpModDivideExactly := by
  unfold Obligations.GpDivAndGpModDivideExactly
  intro s quot a b rem hok hirr
  have hdivision (hv : s.sf.valid = true) (ha : GpPoly s.sf (s.goppa a)) (hb : GpPoly s.sf (s.goppa b))
      (hne : s.goppa b ≠ []) : GpPoly s.sf (gpDiv s.sf (s.goppa a) (s.goppa b))
        ∧ GpPoly s.sf (gpMod s.sf (s.goppa a) (s.goppa b))
        ∧ (gpMod s.sf (s.goppa a) (s.goppa b)).length < (s.goppa b).length
        ∧ ∀ k, (s.coeffs a).getD k 0 = gpProductCoeff s.sf (gpDiv s.sf (s.goppa a) (s.goppa b)) (s.coeffs b) k
            ^^^ (gpMod s.sf (s.goppa a) (s.goppa b)).getD k 0 := by
    obtain ⟨K, _, _, φ, hfield⟩ := SmallField.exists_isField hok hv (hirr hv)
    refine ⟨hfield.gpPoly_gpDiv ha _, hfield.gpPoly_gpMod ha _, hfield.length_gpMod_lt ha hb hne, fun k => ?_⟩
    rw [← getD_goppa, hfield.coeff_gpDiv_gpMod ha, gpProductCoeff_congr (fun _ => rfl) (getD_goppa s b)]
  constructor
  · refine Outcome_check rfl fun hv h => Outcome_checkGoppa h fun h => Outcome_checkGoppa h fun h => Outcome_check h fun _ h =>
      Outcome_check h fun _ h => Outcome_checkElems h fun ha h => Outcome_checkElems h fun hb h =>
      Outcome_check h fun hne h => ?_
    obtain ⟨hq, hr, hlen, hid⟩ := hdivision hv (gpPoly_goppa ha) (gpPoly_goppa hb) hne
    exact ⟨_, _, hq, hr, hlen, hid, Outcome_check h fun hfq h => Outcome_check h fun hfr h => Outcome_check h fun hap h =>
      completes_putGoppa_pair hok hv h hq hr hfq hfr hap⟩
  · refine Outcome_checkGp2 rfl fun hv ha hb h => Outcome_check h fun hne h => ?_
    obtain ⟨hq, hr, hlen, hid⟩ := hdivision hv ha hb hne
    exact ⟨_, _, hq, hr, hlen, hid, Outcome_storeGoppa hok hv h hr⟩

end Sys2Proof.Machine

/-! ## Greatest common divisors and inverses over the small field (47_goppa R356 to R359, R366) -/

namespace Sys2Proof.Machine

set_option Elab.async false

open Polynomial

section Euclid

variable {F : SmallField} {K : Type} [Field K] [CharP K 2] {φ : Nat → K} (h : F.IsField φ) {a b g u r₀ r₁ u₀ u₁ : List Nat}
  {k : Nat}
include h

/-! ### Euclid's loop -/

theorem SmallField.IsField.dvd_sub_gpMod (a g : List Nat) : fieldPoly φ g ∣ fieldPoly φ a - fieldPoly φ (gpMod F a g) := by
  refine ⟨fieldPoly φ (gpDiv F a g), ?_⟩
  linear_combination h.gpDiv_mul_add_gpMod a g

theorem SmallField.IsField.dvd_gpMod_iff {D : K[X]} (hb : D ∣ fieldPoly φ b) :
    D ∣ fieldPoly φ (gpMod F a b) ↔ D ∣ fieldPoly φ a := by
  rw [h.gpDiv_mul_add_gpMod a b]
  exact (dvd_add_right (hb.mul_left _)).symm

/-- Each round of Euclid's loop keeps the common divisors (47 R356). -/
theorem SmallField.IsField.gpGcdLoop_spec (hk : b.length < k) (ha : GpPoly F a) (hb : GpPoly F b) :
    GpPoly F (gpGcdLoop F k a b)
      ∧ ∀ D, D ∣ fieldPoly φ (gpGcdLoop F k a b) ↔ D ∣ fieldPoly φ a ∧ D ∣ fieldPoly φ b := by
  induction k generalizing a b with
  | zero => omega
  | succ k ih =>
    rw [gpGcdLoop]
    split
    · rename_i hnil
      subst hnil
      exact ⟨ha, fun D => by simp [fieldPoly_nil φ]⟩
    · rename_i hne
      have hlt := h.length_gpMod_lt ha hb hne
      obtain ⟨hpoly, hdvd⟩ := ih (by omega) hb (h.gpPoly_gpMod ha b)
      exact ⟨hpoly, fun D => (hdvd D).trans ⟨fun ⟨hDb, hDr⟩ => ⟨(h.dvd_gpMod_iff hDb).1 hDr, hDb⟩,
        fun ⟨hDa, hDb⟩ => ⟨hDb, (h.dvd_gpMod_iff hDb).2 hDa⟩⟩⟩

omit [CharP K 2] in
/-- The inverse of a leading coefficient is a unit of the ring. -/
theorem SmallField.IsField.isUnit_C_inv_gpLead (ha : GpPoly F a) (hne : a ≠ []) :
    IsUnit (C (φ (F.inv (gpLead a)))) := by
  refine IsUnit.map C (IsUnit.of_mul_eq_one (φ (gpLead a)) ?_)
  rw [← h.mul, h.inv_gpLead_mul ha hne, h.one]

theorem SmallField.IsField.dvd_gpMonic_iff (ha : GpPoly F a) (D : K[X]) :
    D ∣ fieldPoly φ (gpMonic F a) ↔ D ∣ fieldPoly φ a := by
  rw [gpMonic, h.fieldPoly_gpScale]
  by_cases hne : a = []
  · rw [hne, fieldPoly_nil, mul_zero]
  · exact (h.isUnit_C_inv_gpLead ha hne).dvd_mul_left

theorem SmallField.IsField.gpLead_gpMonic (ha : GpPoly F a) (hne : a ≠ []) : gpLead (gpMonic F a) = 1 := by
  have hpoly : GpPoly F (gpMonic F a) := gpPoly_gpScale h.ok h.valid _ a
  refine h.inj _ _ (hpoly.coeff_lt _) (F.one_lt h.ok h.valid) ?_
  rw [← h.leadingCoeff_fieldPoly hpoly, gpMonic, h.fieldPoly_gpScale, leadingCoeff_mul, leadingCoeff_C,
    h.leadingCoeff_fieldPoly ha, ← h.mul, h.inv_gpLead_mul ha hne]

omit [CharP K 2] in
theorem SmallField.IsField.gpPoly_gpGcd (a b : List Nat) : GpPoly F (gpGcd F a b) := gpPoly_gpScale h.ok h.valid _ _

/-- The divisors of the gcd are the common divisors (47 R356). -/
theorem SmallField.IsField.dvd_gpGcd_iff (ha : GpPoly F a) (hb : GpPoly F b) (D : K[X]) :
    D ∣ fieldPoly φ (gpGcd F a b) ↔ D ∣ fieldPoly φ a ∧ D ∣ fieldPoly φ b := by
  obtain ⟨hpoly, hdvd⟩ := h.gpGcdLoop_spec (Nat.lt_succ_self _) ha hb
  exact (h.dvd_gpMonic_iff hpoly D).trans (hdvd D)

theorem SmallField.IsField.gpLead_gpGcd (ha : GpPoly F a) (hb : GpPoly F b) (hne : a ≠ [] ∨ b ≠ []) :
    gpLead (gpGcd F a b) = 1 := by
  obtain ⟨hpoly, hdvd⟩ := h.gpGcdLoop_spec (Nat.lt_succ_self _) ha hb
  refine h.gpLead_gpMonic hpoly fun hnil => ?_
  have hzero := (hdvd 0).1 (by rw [hnil, fieldPoly_nil])
  rw [zero_dvd_iff, zero_dvd_iff, h.fieldPoly_eq_zero_iff ha, h.fieldPoly_eq_zero_iff hb] at hzero
  exact hne.elim (fun hna => hna hzero.1) fun hnb => hnb hzero.2

/-- The gcd is a constant exactly where the two are coprime. -/
theorem SmallField.IsField.length_gpGcd_eq_one_iff (ha : GpPoly F a) (hb : GpPoly F b) :
    (gpGcd F a b).length = 1 ↔ IsCoprime (fieldPoly φ a) (fieldPoly φ b) := by
  rw [← h.isUnit_fieldPoly_iff (h.gpPoly_gpGcd a b), ← isRelPrime_iff_isCoprime]
  refine ⟨fun hu D hDa hDb => isUnit_of_dvd_unit ((h.dvd_gpGcd_iff ha hb D).2 ⟨hDa, hDb⟩) hu, fun hrel => ?_⟩
  obtain ⟨hga, hgb⟩ := (h.dvd_gpGcd_iff ha hb _).1 dvd_rfl
  exact hrel hga hgb

/-! ### The extended loop -/

/-- Each `r` of the extended loop stays `u` times the operand modulo the modulus, and the loop keeps the common divisors of its
two remainders (47 R358). -/
theorem SmallField.IsField.gpExtLoop_spec {A G : K[X]} (hk : r₁.length < k) (hr₀ : GpPoly F r₀) (hr₁ : GpPoly F r₁)
    (hu₀ : G ∣ fieldPoly φ r₀ - fieldPoly φ u₀ * A) (hu₁ : G ∣ fieldPoly φ r₁ - fieldPoly φ u₁ * A) :
    GpPoly F (gpExtLoop F k r₀ u₀ r₁ u₁).1
      ∧ G ∣ fieldPoly φ (gpExtLoop F k r₀ u₀ r₁ u₁).1 - fieldPoly φ (gpExtLoop F k r₀ u₀ r₁ u₁).2 * A
      ∧ ∀ D, D ∣ fieldPoly φ (gpExtLoop F k r₀ u₀ r₁ u₁).1 ↔ D ∣ fieldPoly φ r₀ ∧ D ∣ fieldPoly φ r₁ := by
  induction k generalizing r₀ u₀ r₁ u₁ with
  | zero => omega
  | succ k ih =>
    rw [gpExtLoop]
    split
    · rename_i hnil
      subst hnil
      exact ⟨hr₀, hu₀, fun D => by simp [fieldPoly_nil φ]⟩
    · rename_i hne
      have hlt := h.length_gpMod_lt hr₀ hr₁ hne
      have hnext : G ∣ fieldPoly φ (gpMod F r₀ r₁) - fieldPoly φ (gpAdd u₀ (gpMul F (gpDiv F r₀ r₁) u₁)) * A := by
        rw [h.fieldPoly_gpAdd, h.fieldPoly_gpMul]
        have hcomb := dvd_sub hu₀ (hu₁.mul_left (fieldPoly φ (gpDiv F r₀ r₁)))
        rw [h.gpDiv_mul_add_gpMod r₀ r₁] at hcomb
        convert hcomb using 1
        linear_combination (-1 : K[X]) * CharTwo.add_self_eq_zero (fieldPoly φ (gpDiv F r₀ r₁) * fieldPoly φ u₁ * A)
      obtain ⟨hpoly, hmul, hdvd⟩ := ih (by exact (by omega : (gpMod F r₀ r₁).length < k)) hr₁ (h.gpPoly_gpMod hr₀ r₁) hu₁ hnext
      exact ⟨hpoly, hmul, fun D => (hdvd D).trans ⟨fun ⟨hDb, hDr⟩ => ⟨(h.dvd_gpMod_iff hDb).1 hDr, hDb⟩,
        fun ⟨hDa, hDb⟩ => ⟨hDb, (h.dvd_gpMod_iff hDb).2 hDa⟩⟩⟩

/-- The loop of an inversion: the last remainder is a multiple of `a` modulo `g`, and a constant where the two are coprime. -/
theorem SmallField.IsField.gpExtLoop_start (ha : GpPoly F a) (hg : GpPoly F g) :
    GpPoly F (gpExtLoop F (a.length + 1) g [] a [1]).1
      ∧ fieldPoly φ g ∣ fieldPoly φ (gpExtLoop F (a.length + 1) g [] a [1]).1
          - fieldPoly φ (gpExtLoop F (a.length + 1) g [] a [1]).2 * fieldPoly φ a
      ∧ ((gpExtLoop F (a.length + 1) g [] a [1]).1.length = 1 ↔ IsCoprime (fieldPoly φ a) (fieldPoly φ g)) := by
  obtain ⟨hpoly, hmul, hdvd⟩ := h.gpExtLoop_spec (G := fieldPoly φ g) (A := fieldPoly φ a) (u₀ := []) (u₁ := [1])
    (Nat.lt_succ_self _) hg ha (by simp [fieldPoly_nil φ]) (by simp [h.fieldPoly_one])
  refine ⟨hpoly, hmul, ?_⟩
  rw [← h.isUnit_fieldPoly_iff hpoly, ← isRelPrime_iff_isCoprime]
  refine ⟨fun hu D hDa hDg => isUnit_of_dvd_unit ((hdvd D).2 ⟨hDg, hDa⟩) hu, fun hrel => ?_⟩
  obtain ⟨hDg, hDa⟩ := (hdvd _).1 dvd_rfl
  exact hrel hDa hDg

/-- There is no inverse exactly where a common divisor has degree 1 or more (47 R358). -/
theorem SmallField.IsField.gpModInv_eq_none_iff (ha : GpPoly F a) (hg : GpPoly F g) :
    gpModInv F a g = none ↔ ¬ IsCoprime (fieldPoly φ a) (fieldPoly φ g) := by
  obtain ⟨-, -, hone⟩ := h.gpExtLoop_start ha hg
  rw [← hone]
  simp [gpModInv]

/-- The inverse the model computes (47 R358). -/
theorem SmallField.IsField.gpModInv_eq_some (ha : GpPoly F a) (hg : GpPoly F g) (hne : g ≠ [])
    (hu : gpModInv F a g = some u) :
    GpPoly F u ∧ u.length < g.length ∧ fieldPoly φ g ∣ fieldPoly φ a * fieldPoly φ u - 1 := by
  obtain ⟨hpoly, hmul, -⟩ := h.gpExtLoop_start ha hg
  simp only [gpModInv, Option.ite_none_right_eq_some, Option.some.injEq] at hu
  obtain ⟨hlen, rfl⟩ := hu
  generalize gpExtLoop F (a.length + 1) g [] a [1] = d at hpoly hmul hlen ⊢
  have hscaled := gpPoly_gpScale h.ok h.valid (F.inv (gpLead d.1)) d.2
  refine ⟨h.gpPoly_gpMod hscaled g, h.length_gpMod_lt hscaled hg hne, ?_⟩
  have hconst : C (φ (F.inv (gpLead d.1))) * fieldPoly φ d.1 = 1 := by
    obtain ⟨c, hc⟩ := List.length_eq_one_iff.1 hlen
    have hinv := h.inv_gpLead_mul hpoly (List.ne_nil_of_length_eq_add_one hlen)
    have hpolyc : fieldPoly φ d.1 = C (φ (gpLead d.1)) := by simp [fieldPoly, hc, gpLead]
    rw [hpolyc, ← C_mul, ← h.mul, hinv, h.one, C_1]
  have hmod := h.dvd_sub_gpMod (gpScale F (F.inv (gpLead d.1)) d.2) g
  rw [h.fieldPoly_gpScale] at hmod
  have hcomb := dvd_sub ((hmul.mul_left (C (φ (F.inv (gpLead d.1))))).neg_right) (hmod.mul_left (fieldPoly φ a))
  convert hcomb using 1
  linear_combination hconst

/-! ### Congruence -/

/-- `f` gives the coefficients of `P`. -/
def IsCoeffs (F : SmallField) (φ : Nat → K) (f : Nat → Nat) (P : K[X]) : Prop :=
  ∀ k, f k < 2 ^ F.m.toNat ∧ φ (f k) = P.coeff k

theorem SmallField.IsField.isCoeffs_product (a b : List Nat) :
    IsCoeffs F φ (gpProductCoeff F a b) (fieldPoly φ a * fieldPoly φ b) :=
  fun k => ⟨gpProductCoeff_lt h.ok h.valid a b k, h.map_gpProductCoeff a b k⟩

theorem SmallField.IsField.isCoeffs_list (ha : GpPoly F a) : IsCoeffs F φ (fun k => a.getD k 0) (fieldPoly φ a) :=
  fun k => ⟨ha.coeff_lt k, (h.coeff_fieldPoly a k).symm⟩

theorem SmallField.IsField.isCoeffs_one : IsCoeffs F φ (fun k => if k = 0 then 1 else 0) 1 := by
  have hone := F.one_lt h.ok h.valid
  refine fun k => ⟨by dsimp only; split <;> omega, ?_⟩
  rw [coeff_one, apply_ite φ, h.one, h.zero]

/-- Congruence of coefficients is congruence in the ring (47 R366). -/
theorem SmallField.IsField.gpModEq_of_dvd {f f' : Nat → Nat} {P P' : K[X]} (hf : IsCoeffs F φ f P) (hf' : IsCoeffs F φ f' P')
    (hdvd : fieldPoly φ g ∣ P - P') : GpModEq F g f f' := by
  obtain ⟨Q, hQ⟩ := hdvd
  obtain ⟨q, hq, rfl⟩ := h.exists_gpPoly Q
  refine ⟨q, hq, fun k => ?_⟩
  obtain ⟨hlt, hcoeff⟩ := hf k
  obtain ⟨hlt', hcoeff'⟩ := hf' k
  refine h.inj _ _ (Nat.xor_lt_two_pow hlt hlt') (gpProductCoeff_lt h.ok h.valid q g k) ?_
  rw [h.xor, hcoeff, hcoeff', h.map_gpProductCoeff, mul_comm, ← hQ, CharTwo.sub_eq_add, coeff_add]

end Euclid

section ModularCommands

variable {F : SmallField} {a b g r u : List Nat}

/-- What an inverse modulo `g` is: `a · u ≡ 1`, of lower degree than `g` (47 R358). -/
def GpInverse (F : SmallField) (a g u : List Nat) : Prop :=
  GpPoly F u ∧ u.length < g.length ∧ GpModEq F g (gpProductCoeff F a u) (fun k => if k = 0 then 1 else 0)

/-- What a product modulo `g` is: `r ≡ a · b`, of lower degree than `g` (47 R357). -/
def GpModProduct (F : SmallField) (a b g r : List Nat) : Prop :=
  GpPoly F r ∧ r.length < g.length ∧ GpModEq F g (gpProductCoeff F a b) (fun k => r.getD k 0)

variable (hok : F.ok = true) (hv : F.valid = true) (hirr : PolyIrreducible F.poly.toNat)
include hok hv hirr

/-- The gcd the model computes: monic, and divided by exactly the common divisors (47 R356). -/
theorem gpGcd_isGcd (ha : GpPoly F a) (hb : GpPoly F b) (hne : a ≠ [] ∨ b ≠ []) :
    gpLead (gpGcd F a b) = 1 ∧ GpDvd F (gpGcd F a b) a ∧ GpDvd F (gpGcd F a b) b
      ∧ ∀ e, GpDvd F e a → GpDvd F e b → GpDvd F e (gpGcd F a b) := by
  obtain ⟨K, _, _, φ, h⟩ := SmallField.exists_isField hok hv hirr
  obtain ⟨hga, hgb⟩ := (h.dvd_gpGcd_iff ha hb _).1 dvd_rfl
  refine ⟨h.gpLead_gpGcd ha hb hne, (h.gpDvd_iff ha).2 hga, (h.gpDvd_iff hb).2 hgb, fun e hea heb => ?_⟩
  exact (h.gpDvd_iff (h.gpPoly_gpGcd a b)).2 ((h.dvd_gpGcd_iff ha hb _).2 ⟨(h.gpDvd_iff ha).1 hea, (h.gpDvd_iff hb).1 heb⟩)

theorem gpModProduct_gpMod (hg : GpPoly F g) (hne : g ≠ []) (a b : List Nat) :
    GpModProduct F a b g (gpMod F (gpMul F a b) g) := by
  obtain ⟨K, _, _, φ, h⟩ := SmallField.exists_isField hok hv hirr
  have hprod := gpPoly_gpMul hok hv a b
  have hdvd := h.dvd_sub_gpMod (gpMul F a b) g
  rw [h.fieldPoly_gpMul] at hdvd
  exact ⟨h.gpPoly_gpMod hprod g, h.length_gpMod_lt hprod hg hne,
    h.gpModEq_of_dvd (h.isCoeffs_product a b) (h.isCoeffs_list (h.gpPoly_gpMod hprod g)) hdvd⟩

/-- An operand reduced modulo `g` first has an inverse exactly where it is coprime to `g` (47 R358). -/
theorem gpModInv_gpMod_eq_none_iff (ha : GpPoly F a) (hg : GpPoly F g) :
    gpModInv F (gpMod F a g) g = none ↔ ¬ GpCoprime F a g := by
  obtain ⟨K, _, _, φ, h⟩ := SmallField.exists_isField hok hv hirr
  rw [h.gpModInv_eq_none_iff (h.gpPoly_gpMod ha g) hg, h.gpCoprime_iff ha hg, h.gpDiv_mul_add_gpMod a g,
    IsCoprime.mul_add_right_left_iff]

theorem gpInverse_gpModInv (ha : GpPoly F a) (hg : GpPoly F g) (hne : g ≠ []) (hu : gpModInv F (gpMod F a g) g = some u) :
    GpInverse F a g u := by
  obtain ⟨K, _, _, φ, h⟩ := SmallField.exists_isField hok hv hirr
  obtain ⟨hpoly, hlen, hdvd⟩ := h.gpModInv_eq_some (h.gpPoly_gpMod ha g) hg hne hu
  refine ⟨hpoly, hlen, h.gpModEq_of_dvd (h.isCoeffs_product a u) h.isCoeffs_one ?_⟩
  convert dvd_add hdvd ((h.dvd_sub_gpMod a g).mul_right (fieldPoly φ u)) using 1
  ring

end ModularCommands

/-- NOT_INVERTIBLE where a common divisor has degree 1 or more, and otherwise an inverse to go on with (R358, R359). -/
theorem Outcome_coprime {i : Instr} {s : State} {x m : List Nat} {rest : List (Prop × ErrCode)} {last : Prop}
    (hok : s.sf.ok = true) (hv : s.sf.valid = true) (hirr : PolyIrreducible s.sf.poly.toNat) (hx : GpPoly s.sf x)
    (hm : GpPoly s.sf m) (hne : m ≠ []) (hnone : gpModInv s.sf (gpMod s.sf x m) m = none → EndsWith i s .notInvertible)
    (hsome : ∀ u, gpModInv s.sf (gpMod s.sf x m) m = some u → GpInverse s.sf x m u → Outcome i s rest last) :
    Outcome i s ((GpCoprime s.sf x m, .notInvertible) :: rest) last := by
  have hiff := gpModInv_gpMod_eq_none_iff hok hv hirr hx hm
  refine ⟨fun hcop => hnone (hiff.2 hcop), fun hcop => ?_⟩
  obtain ⟨u, hu⟩ := Option.ne_none_iff_exists'.1 fun hn => hiff.1 hn hcop
  exact hsome u hu (gpInverse_gpModInv hok hv hirr hx hm hne hu)

/-- Settles O57: Euclid's loop keeps the common divisors, and its extension keeps each remainder a multiple of the operand
modulo `G`. -/
theorem gpGcdAndModularCommandsStoreTheirPolynomial : Obligations.GpGcdAndModularCommandsStoreTheirPolynomial := by
  unfold Obligations.GpGcdAndModularCommandsStoreTheirPolynomial
  intro s dst a b g hok hirr
  refine ⟨?_, ?_, ?_, ?_⟩
  · refine Outcome_checkGp2 rfl fun hv ha hb h => Outcome_check h fun hne h => ?_
    obtain ⟨hlead, hda, hdb, hgreatest⟩ := gpGcd_isGcd hok hv (hirr hv) ha hb hne
    have hd : GpPoly s.sf (gpGcd s.sf (s.goppa a) (s.goppa b)) := gpPoly_gpScale hok hv _ _
    exact ⟨_, hd, hlead, hda, hdb, fun e _ => hgreatest e, Outcome_storeGoppa hok hv h hd⟩
  · refine Outcome_checkGp3 rfl fun hv _ _ hg h => Outcome_checkModulus h fun hne h => ?_
    obtain ⟨hr, hlt, hmod⟩ := gpModProduct_gpMod hok hv (hirr hv) hg hne (s.goppa a) (s.goppa b)
    exact ⟨_, hr, hlt, hmod, Outcome_storeGoppa hok hv h hr⟩
  · refine Outcome_checkGp2 rfl fun hv ha hg h => Outcome_checkModulus h fun hne h =>
      Outcome_coprime hok hv (hirr hv) ha hg hne (fun hnone => ?_) fun u hinv ⟨hu, hlt, hmod⟩ => ?_
    · simp only [hnone] at h
      exact h
    · simp only [hinv] at h
      exact ⟨u, hu, hlt, hmod, Outcome_storeGoppa hok hv h hu⟩
  · refine Outcome_checkGp3 rfl fun hv _ hb hg h => Outcome_checkModulus h fun hne h =>
      Outcome_coprime hok hv (hirr hv) hb hg hne (fun hnone => ?_) fun u hinv ⟨hu, hlt, hmod⟩ => ?_
    · simp only [hnone] at h
      exact h
    · simp only [hinv] at h
      obtain ⟨hr, hrlt, hrmod⟩ := gpModProduct_gpMod hok hv (hirr hv) hg hne (s.goppa a) u
      exact ⟨u, _, hu, hlt, hr, hrlt, hmod, hrmod, Outcome_storeGoppa hok hv h hr⟩

end Sys2Proof.Machine

/-! ## The irreducibility test over the small field, and the degree (47_goppa R362, R363)

The test passes when `f` is coprime to `x^(q^i) − x`, `q = 2^m`, for every `i` up to half its degree: the roots of that
polynomial are the elements of the extension of degree `i`, so a factor of degree `i` would divide it. -/

namespace Sys2Proof.Machine

set_option Elab.async false

open Polynomial

section FiniteFields

variable {K : Type} [Field K]

/-- The difference a round forms may be taken from any polynomial congruent modulo `P`. -/
theorem isCoprime_add_X_iff_of_dvd [CharP K 2] {P u a : K[X]} (h : P ∣ u - a) : IsCoprime P (u + X) ↔ IsCoprime P (a - X) := by
  obtain ⟨c, hc⟩ := h
  have hsum : u + X = a - X + P * c := by linear_combination hc + CharTwo.add_self_eq_zero (X : K[X])
  rw [hsum, IsCoprime.add_mul_left_right_iff]

variable [Finite K]

/-- Over a finite field of `q` elements: a proper factor has an irreducible part of degree at most half, which divides
`x^(q^i) − x` for its degree `i`. -/
theorem irreducible_iff_coprime_frobenius_card {P : K[X]} (h0 : P ≠ 0) (hu : ¬ IsUnit P) :
    Irreducible P ↔ ∀ i, 0 < i → i ≤ P.natDegree / 2 → IsCoprime P (X ^ Nat.card K ^ i - X) := by
  refine ⟨fun hP i hi hle => hP.coprime_iff_not_dvd.2 fun hdvd => ?_, fun h => ?_⟩
  · have hdeg := Nat.le_of_dvd hi (hP.natDegree_dvd_iff_dvd_X_pow_card_pow_sub_X.2 hdvd)
    omega
  · refine (irreducible_iff_lt_natDegree_lt h0 hu).2 fun q hq hdeg hdvd => ?_
    obtain ⟨hpos, hle⟩ := Finset.mem_Ioc.1 hdeg
    obtain ⟨Q, hQ, hQq⟩ := exists_irreducible_of_natDegree_pos hpos
    have hQle : Q.natDegree ≤ q.natDegree := natDegree_le_of_dvd hQq hq.ne_zero
    have hfrob : Q ∣ X ^ Nat.card K ^ Q.natDegree - X := hQ.natDegree_dvd_iff_dvd_X_pow_card_pow_sub_X.1 dvd_rfl
    exact hQ.not_isUnit ((h _ hQ.natDegree_pos (hQle.trans hle)).isUnit_of_dvd' (hQq.trans hdvd) hfrob)

end FiniteFields

/-- The polynomial `x`, from which the test starts. -/
theorem gpPoly_X {F : SmallField} (hok : F.ok = true) (hv : F.valid = true) : GpPoly F [0, 1] := by
  have hone := F.one_lt hok hv
  refine ⟨gpNormal_append [0] rfl (List.cons_ne_nil 1 []), ?_⟩
  simp [hone]

section Irreducibility

variable {F : SmallField} {K : Type} [Field K] {φ : Nat → K} (h : F.IsField φ) {f u : List Nat} {j k : Nat}
include h

/-- The field has one value for each element. -/
theorem SmallField.IsField.card_eq : Nat.card K = 2 ^ F.m.toNat := by
  have hbij : Function.Bijective fun x : Fin (2 ^ F.m.toNat) => φ x :=
    ⟨fun x y hxy => Fin.ext (h.inj _ _ x.isLt y.isLt hxy), fun y => by
      obtain ⟨x, hx, hy⟩ := h.surjective y
      exact ⟨⟨x, hx⟩, hy⟩⟩
  rw [← Nat.card_eq_of_bijective _ hbij, Nat.card_fin]

theorem SmallField.IsField.finite : Finite K :=
  Nat.finite_of_card_ne_zero (h.card_eq ▸ (Nat.two_pow_pos _).ne')

variable [CharP K 2]

/-! ### The rounds -/

/-- `k` squarings modulo `f` raise to the power `2^k` (47 R362). -/
theorem SmallField.IsField.gpFrobenius_spec (hu : GpPoly F u) (f : List Nat) (k : Nat) :
    GpPoly F (gpFrobenius F f k u) ∧ fieldPoly φ f ∣ fieldPoly φ (gpFrobenius F f k u) - fieldPoly φ u ^ 2 ^ k := by
  induction k with
  | zero => exact ⟨hu, by simp [gpFrobenius]⟩
  | succ k ih =>
    obtain ⟨hpoly, hdvd⟩ := ih
    refine ⟨h.gpPoly_gpMod (gpPoly_gpMul h.ok h.valid _ _) f, ?_⟩
    have hmod := h.dvd_sub_gpMod (gpMul F (gpFrobenius F f k u) (gpFrobenius F f k u)) f
    rw [h.fieldPoly_gpMul] at hmod
    rw [pow_succ 2 k, pow_mul, gpFrobenius]
    have hsum := dvd_sub (hdvd.mul_right (fieldPoly φ (gpFrobenius F f k u) + fieldPoly φ u ^ 2 ^ k)) hmod
    convert hsum using 1
    ring

/-- A round passes when `f` is coprime to the difference; a zero difference shares all of `f`. -/
theorem SmallField.IsField.gpIrreducibleLoop_succ_iff (hf : GpPoly F f) (hlen : 2 ≤ f.length) (hu : GpPoly F u) (k : Nat) :
    gpIrreducibleLoop F f (k + 1) u = true
      ↔ IsCoprime (fieldPoly φ f) (fieldPoly φ (gpFrobenius F f F.m.toNat u) + X)
        ∧ gpIrreducibleLoop F f k (gpFrobenius F f F.m.toNat u) = true := by
  obtain ⟨hnext, -⟩ := h.gpFrobenius_spec hu f F.m.toNat
  have hX := gpPoly_X h.ok h.valid
  have ht : GpPoly F (gpAdd (gpFrobenius F f F.m.toNat u) [0, 1]) := gpPoly_gpAdd hnext.coeff_lt hX.coeff_lt
  rw [← h.fieldPoly_X, ← h.fieldPoly_gpAdd, ← h.length_gpGcd_eq_one_iff hf ht]
  simp only [gpIrreducibleLoop]
  split
  · rename_i hzero
    rw [hzero, h.length_gpGcd_eq_one_iff hf (gpPoly_nil F), fieldPoly_nil, isCoprime_zero_right, h.isUnit_fieldPoly_iff hf]
    exact iff_of_false Bool.false_ne_true fun hone => by omega
  · split
    · rename_i hg
      exact iff_of_false Bool.false_ne_true fun hand => hg hand.1
    · rename_i hg
      exact (and_iff_right (not_not.1 hg)).symm

/-- From `x^(q^j)` on, `k` rounds test the next `k` powers. -/
theorem SmallField.IsField.gpIrreducibleLoop_iff (hf : GpPoly F f) (hlen : 2 ≤ f.length) (hu : GpPoly F u)
    (hdvd : fieldPoly φ f ∣ fieldPoly φ u - X ^ Nat.card K ^ j) : gpIrreducibleLoop F f k u = true
      ↔ ∀ i, j < i → i ≤ j + k → IsCoprime (fieldPoly φ f) (X ^ Nat.card K ^ i - X) := by
  induction k generalizing u j with
  | zero => exact iff_of_true rfl fun i hlt hle => by omega
  | succ k ih =>
    obtain ⟨hpoly, hfrob⟩ := h.gpFrobenius_spec hu f F.m.toNat
    rw [← h.card_eq] at hfrob
    have hnext : fieldPoly φ f ∣ fieldPoly φ (gpFrobenius F f F.m.toNat u) - X ^ Nat.card K ^ (j + 1) := by
      have hpow := hdvd.trans (sub_dvd_pow_sub_pow (fieldPoly φ u) (X ^ Nat.card K ^ j) (Nat.card K))
      rw [← pow_mul, ← pow_succ] at hpow
      convert dvd_add hfrob hpow using 1
      ring
    have := h.finite
    rw [h.gpIrreducibleLoop_succ_iff hf hlen hu, isCoprime_add_X_iff_of_dvd hnext, ih hpoly hnext]
    refine ⟨fun ⟨hfirst, hrest⟩ i hlt hle => ?_,
      fun hall => ⟨hall _ (by omega) (by omega), fun i hlt hle => hall i (by omega) (by omega)⟩⟩
    rcases Nat.eq_or_lt_of_le (Nat.succ_le_of_lt hlt) with rfl | hlt'
    · exact hfirst
    · exact hrest i hlt' (by omega)

/-! ### Polynomials without proper factors -/

/-- A list without factors of degree 1 or more is an irreducible element of the ring (47 R362). -/
theorem SmallField.IsField.gpIrreducible_iff (hf : GpPoly F f) (hlen : 2 ≤ f.length) :
    GpIrreducible F f ↔ Irreducible (fieldPoly φ f) := by
  have hne : f ≠ [] := by
    rintro rfl
    exact absurd hlen (by decide)
  have hfactor {a : List Nat} (ha : GpPoly F a) (hdvd : fieldPoly φ a ∣ fieldPoly φ f) : a.length = 1 ∨ 2 ≤ a.length := by
    have : a ≠ [] := by
      rintro rfl
      rw [fieldPoly_nil, zero_dvd_iff, h.fieldPoly_eq_zero_iff hf] at hdvd
      exact hne hdvd
    have := List.length_pos_of_ne_nil this
    omega
  constructor
  · refine fun hirr => ⟨fun hu => ?_, fun A B hAB => ?_⟩
    · have := (h.isUnit_fieldPoly_iff hf).1 hu
      omega
    · obtain ⟨a, ha, rfl⟩ := h.exists_gpPoly A
      obtain ⟨b, hb, rfl⟩ := h.exists_gpPoly B
      rw [h.isUnit_fieldPoly_iff ha, h.isUnit_fieldPoly_iff hb]
      rcases hfactor ha ⟨_, hAB⟩ with ha1 | ha2
      · exact .inl ha1
      rcases hfactor hb ⟨_, hAB.trans (mul_comm _ _)⟩ with hb1 | hb2
      · exact .inr hb1
      obtain ⟨k, hk⟩ := hirr a b ha hb ha2 hb2
      exact absurd ((h.coeffs_eq_product_iff hf.coeff_lt a b).2 hAB k) hk
  · intro hirr a b ha hb ha2 hb2
    by_contra hall
    have hprod := (h.coeffs_eq_product_iff hf.coeff_lt a b).1 fun k => not_not.1 fun hk => hall ⟨k, hk⟩
    rcases hirr.isUnit_or_isUnit hprod with hu | hu
    · have := (h.isUnit_fieldPoly_iff ha).1 hu
      omega
    · have := (h.isUnit_fieldPoly_iff hb).1 hu
      omega

/-- The test of R362 is exact: its rounds go up to half the degree. -/
theorem SmallField.IsField.gpIrreducible_eq_true_iff (hf : GpPoly F f) (hlen : 2 ≤ f.length) (c : Bool) :
    gpIrreducible c F f = true ↔ GpIrreducible F f := by
  have hnil : f ≠ [] := by
    rintro rfl
    exact absurd hlen (by decide)
  have hu : ¬ IsUnit (fieldPoly φ f) := fun hu => by
    have := (h.isUnit_fieldPoly_iff hf).1 hu
    omega
  have hX := gpPoly_X h.ok h.valid
  have := h.finite
  rw [h.gpIrreducible_iff hf hlen, irreducible_iff_coprime_frobenius_card (mt (h.fieldPoly_eq_zero_iff hf).1 hnil) hu,
    gpIrreducible, if_neg hnil, if_neg (by omega),
    h.gpIrreducibleLoop_iff (j := 0) hf hlen hX (by simp [h.fieldPoly_X]), Nat.zero_add, h.natDegree_fieldPoly hf]

end Irreducibility

/-- Half of degree 1 is no round (47 R362). -/
theorem gpIrreducible_pair (c : Bool) (F : SmallField) (x y : Nat) : gpIrreducible c F [x, y] = true := by
  simp [gpIrreducible, gpIrreducibleLoop]

/-! ### The degree -/

section Degree

variable {a : List Nat} {n : Nat}

/-- The degree of a polynomial is that of its highest coefficient that is not 0 (47 R363). -/
theorem length_gpTrim_of_top (htop : a.getD n 0 ≠ 0) (habove : ∀ k, n < k → a.getD k 0 = 0) : (gpTrim a).length = n + 1 := by
  refine Nat.le_antisymm ((gpNormal_gpTrim a).length_le_iff.2 fun k hk => (getD_gpTrim a k).trans (habove k hk)) ?_
  by_contra hlt
  exact htop (by rw [← getD_gpTrim, List.getD_eq_default _ 0 (by omega)])

theorem degreeWord_nil : degreeWord (gpDeg []) = 0xFFFFFFFF := by decide

theorem degreeWord_of_length (h : a.length = n + 1) : degreeWord (gpDeg a) = BitVec.ofNat 32 n := by
  rw [degreeWord, gpDeg, h, Nat.cast_succ, add_sub_cancel_right]
  exact BitVec.ofInt_natCast 32 n

end Degree

/-- Settles O59: the test is exact by the field's polynomial ring, and the degree is read off the normal form. -/
theorem gpIrrAndGpDegWriteTheirScalar : Obligations.GpIrrAndGpDegWriteTheirScalar := by
  unfold Obligations.GpIrrAndGpDegWriteTheirScalar
  intro s dst a
  constructor
  · refine Outcome_checkGpS rfl fun hv ha h => ⟨writesScalar_setS h, rfl, fun _ => rfl, gpIrreducible_pair _ _, fun hok hirr hlen => ?_⟩
    obtain ⟨K, _, _, φ, hfield⟩ := SmallField.exists_isField hok hv hirr
    exact hfield.gpIrreducible_eq_true_iff ha hlen _
  · refine Outcome_checkGpS rfl fun _ _ h => ⟨fun hzero => ?_, fun n htop habove => ?_⟩
    · rw [State.goppa, gpTrim_eq_nil_iff.2 hzero, degreeWord_nil] at h
      exact writesScalar_setS h
    · rw [State.goppa, degreeWord_of_length (length_gpTrim_of_top htop habove)] at h
      exact writesScalar_setS h

end Sys2Proof.Machine
